-- ==== Sys2Proof/Word.lean ====
section
/-! DEFINITION. Digits, addresses, ROM words and the 16-digit register: the machine's plainest types (spec 00 R15,
R18; 10 R31). -/

namespace Sys2Proof

/-- One four-bit digit, 0..15 (00 R15, 10 R31). -/
abbrev Digit := BitVec 4

/-- An 11-bit ROM address: the width of pc and of a return-stack slot (00 R15, 10 R38, R39). -/
abbrev Addr := BitVec 11

/-- A ROM word. Thirteen bits nominally, held as 16 so that a word above 0x1FFF can be represented (20 R62). -/
abbrev RomWord := BitVec 16

/-- A register: 16 digits, digit 0 the least significant (00 R18, 10 R31). -/
structure Reg where
  digits : Vector Digit 16
deriving DecidableEq, Repr, Inhabited

/-- `r[i]` (00 R20). No instruction names an index above 15; the total function reads 0 there. -/
def Reg.digit (r : Reg) (i : Nat) : Digit := if h : i < 16 then r.digits[i] else 0

/-- The register whose digit `i` is `f i`. -/
def Reg.ofFn (f : Nat → Digit) : Reg := ⟨Vector.ofFn fun i : Fin 16 => f i⟩

/-- Every digit 0: the reset value of each register (70 R270). -/
def Reg.zero : Reg := Reg.ofFn fun _ => 0

/-- The register written as one 64-bit number, digit `i` in bits 4i+3..4i (00 R19, 20 R65). A notation for tests
and for loading a state; no instruction observes it. -/
def Reg.ofNat (n : Nat) : Reg := Reg.ofFn fun i => BitVec.ofNat 4 (n / 16 ^ i)

/-- The operational registers, in the order of their 2-bit index (00 R21). -/
inductive RegName where
  | A | B | C | D
deriving DecidableEq, Repr

end Sys2Proof
end

