-- ==== Sys2Proof/Config.lean ====
section
/-! DEFINITION. What an implementation fixes: the configuration parameters of spec 00 R16 as plain data, the check a
supplied configuration must pass, and the two values that stay free (opaque constants with no body). The spec's
default of each parameter is `defaultConfig` in Sys2Proof/Decode.lean. -/

namespace Sys2Proof

/-- A digit range [lo, hi] of a mask op (30 R88). -/
structure DigitRange where
  lo : Fin 16
  hi : Fin 16
deriving DecidableEq, Repr

/-- The misc operations a 4-bit code can select (43 R160). -/
inductive MiscOp where
  | ytoa | rabi | jmpR5 | ret | atox | xtoa | atoy | disp | dec | hex | rabR5
deriving DecidableEq, Repr

/-- What a pop leaves in the bottom stack slot (10 R40): the stale slot, or an unconstrained value. -/
inductive PopFill where
  | keep | draw
deriving DecidableEq, Repr

/-- The kinds of activity window (46 R222). -/
inductive WindowKind where
  | pause | long | rsRelease | keyRelease | keyPress
deriving DecidableEq, Repr

/-- One entry of ACTIVITY_WINDOWS: the addresses lo..hi inclusive (46 R222). -/
structure Window where
  kind : WindowKind
  lo   : Addr
  hi   : Addr
deriving DecidableEq, Repr

/-- The location of the error flag: bit `bit` of digit `digit` of a register (46 R224). -/
structure ErrorFlagAt where
  reg   : RegName
  digit : Fin 16
  bit   : Fin 4
deriving DecidableEq, Repr

/-- The configuration parameters (00 R16), all but ROM (in `State.rom`) and DISPLAY_RENDER (a function; below). -/
structure Config where
  /-- MASK_RANGE: the digit range of each M, `none` for INVALID (30 R88). Entries 0xC and 0xE are never consulted. -/
  maskRange : Vector (Option DigitRange) 16
  /-- MISC_MAP: the operation of each misc code, `none` for RESERVED (43 R160). -/
  miscMap : Vector (Option MiscOp) 16
  /-- Whether a reserved encoding is a no-op; otherwise it is refused (41 R137). -/
  reservedAsNop : Bool
  /-- KEY_CODE: the scan code of each row and column (47 R241). -/
  keyCode : Vector (Vector (BitVec 8) 5) 8
  /-- ACTIVITY_WINDOWS, in the order they are tried (46 R222, R223). -/
  windows : List Window
  /-- ERROR_FLAG, `none` for ABSENT (46 R224). -/
  errorFlag : Option ErrorFlagAt
  /-- pop_fill (10 R40). -/
  popFill : PopFill
deriving DecidableEq, Repr

/-- MASK_RANGE(M). -/
def Config.range (c : Config) (m : BitVec 4) : Option DigitRange := c.maskRange.get m.toFin

/-- MISC_MAP(code). -/
def Config.misc (c : Config) (code : BitVec 4) : Option MiscOp := c.miscMap.get code.toFin

/-- The M values MASK_RANGE is consulted for: all but 0xC (flag class) and 0xE (misc class) (30 R88). -/
def consultedMasks : List (BitVec 4) := [0x0, 0x1, 0x2, 0x3, 0x4, 0x5, 0x6, 0x7, 0x8, 0x9, 0xA, 0xB, 0xD, 0xF]

/-- MASK_RANGE has exactly 12 valid entries among those consulted, each with lo ≤ hi (30 R88). -/
abbrev Config.MaskWf (c : Config) : Prop :=
  (consultedMasks.filter fun m => (c.range m).isSome).length = 12 ∧
    ∀ m ∈ consultedMasks, ∀ rg ∈ c.range m, rg.lo ≤ rg.hi

/-- Every window has lo ≤ hi (46 R222) and none contains address 0 (46 R226). -/
abbrev Config.WindowsWf (c : Config) : Prop := ∀ w ∈ c.windows, w.lo ≤ w.hi ∧ 0 < w.lo

/-- A configuration the spec admits as an argument. -/
abbrev Config.Wf (c : Config) : Prop := c.MaskWf ∧ c.WindowsWf

/-- The characters one LED position can show (47 R243): a digit of `0-9A-F`, a blank, a minus sign. -/
inductive Glyph where
  | hex (v : Digit) | blank | minus
deriving DecidableEq, Repr, Inhabited

/-- One of the 12 LED positions: its character and whether its decimal point is lit (47 R243). -/
structure LedCell where
  glyph : Glyph
  point : Bool
deriving DecidableEq, Repr, Inhabited

/-- DISPLAY_RENDER (47 R244): which digits of dA and dB feed which LED position, and the codes for blank, minus and
decimal point, are not in the spec. An uninterpreted function of the two latches (log entry 14). -/
opaque Config.displayRender : Reg → Reg → Vector LedCell 12

/-- The free 11-bit value a pop leaves in the bottom stack slot under pop_fill = DRAW (10 R40): the `n`-th draw of the
run (log entry 10). -/
opaque Config.freeSlot : Nat → Addr

end Sys2Proof
end

