-- ==== Sys2Proof/Syntax.lean ====
section
/-! DEFINITION. The instructions, one constructor per mnemonic of spec/opcode_table.json. Bits of the word that an
instruction ignores stay in its constructor, so that a word can be read back from it (log entry 30). -/

namespace Sys2Proof

/-- The right operand of a mask op that is not a shift (30 R89, K = 0..5): a register, the constant-1 register, or the
register built from R5's nibbles. -/
inductive Operand where
  | reg (k : RegName) | one | r5
deriving DecidableEq, Repr

/-- The instruction set (30 R82; 41 to 45). -/
inductive Instr where
  /-- NOP-OOR: a word above 0x1FFF (41 R133). -/
  | nopOor (w : RomWord)
  /-- BR0: branch in page if COND = 0 (42 R150). -/
  | br0 (a : BitVec 10)
  /-- BR1: branch in page if COND = 1 (42 R151). -/
  | br1 (a : BitVec 10)
  /-- CALL (42 R152). -/
  | call (a : BitVec 11)
  /-- YTOA: A ← Y[RAB] (43 R161). -/
  | ytoa (aux : BitVec 4)
  /-- RABI n: RAB ← n; op[7] is ignored (43 R162). -/
  | rabi (op7 : BitVec 1) (n : BitVec 3)
  /-- JMPR5: pc ← R5 (43 R163). -/
  | jmpR5 (aux : BitVec 4)
  /-- RET: pc ← Pop() (43 R164). -/
  | ret (aux : BitVec 4)
  /-- ATOX: X[RAB] ← A (43 R165). -/
  | atox (aux : BitVec 4)
  /-- XTOA: A ← X[RAB] (43 R166). -/
  | xtoa (aux : BitVec 4)
  /-- ATOY: Y[RAB] ← A (43 R167). -/
  | atoy (aux : BitVec 4)
  /-- DISP: latch the display and scan the keyboard (43 R168). -/
  | disp (aux : BitVec 4)
  /-- DEC: select base 10 (43 R169). -/
  | dec (aux : BitVec 4)
  /-- HEX: select base 16 (43 R170). -/
  | hex (aux : BitVec 4)
  /-- RABR5: RAB ← R5 & 7 (43 R171). -/
  | rabR5 (aux : BitVec 4)
  /-- MISC-RSV: a misc word whose code has no operation (43 R172). -/
  | miscRsv (aux code : BitVec 4)
  /-- SETF reg[12 + d].b (44 R181). -/
  | setf (r : RegName) (d b : BitVec 2)
  /-- CLRF reg[12 + d].b (44 R182). -/
  | clrf (r : RegName) (d b : BitVec 2)
  /-- TSTF reg[12 + d].b (44 R183). -/
  | tstf (r : RegName) (d b : BitVec 2)
  /-- TGLF reg[12 + d].b (44 R184). -/
  | tglf (r : RegName) (d b : BitVec 2)
  /-- NOP-M: a mask word whose M has no range; op[7:0] is ignored (45 R206). -/
  | nopM (m : BitVec 4) (rest : BitVec 8)
  /-- MASK-RSV: a reserved combination of K, L and N (45 R205). -/
  | maskRsv (m : BitVec 4) (j : RegName) (k : BitVec 3) (l : BitVec 2) (n : BitVec 1)
  /-- SHL Mm, j (45 R201). -/
  | shl (m : BitVec 4) (j : RegName)
  /-- SHR Mm, j (45 R202). -/
  | shr (m : BitVec 4) (j : RegName)
  /-- SHLN Mm, j (45 R203). -/
  | shln (m : BitVec 4) (j : RegName)
  /-- SHRN Mm, j (45 R204). -/
  | shrn (m : BitVec 4) (j : RegName)
  /-- ADDJ Mm, j, k (45 R193). -/
  | addj (m : BitVec 4) (j : RegName) (k : Operand)
  /-- SUBJ Mm, j, k (45 R196). -/
  | subj (m : BitVec 4) (j : RegName) (k : Operand)
  /-- ADDK Mm, j, k: the right operand is a register (45 R194). -/
  | addk (m : BitVec 4) (j k : RegName)
  /-- SUBK Mm, j, k: the right operand is a register (45 R197). -/
  | subk (m : BitVec 4) (j k : RegName)
  /-- ADDN Mm, j, k (45 R195). -/
  | addn (m : BitVec 4) (j : RegName) (k : Operand)
  /-- SUBN Mm, j, k (45 R198). -/
  | subn (m : BitVec 4) (j : RegName) (k : Operand)
  /-- EXCH Mm, j, k: both operands are registers (45 R199). -/
  | exch (m : BitVec 4) (j k : RegName)
  /-- STOR Mm, j, k (45 R200). -/
  | stor (m : BitVec 4) (j : RegName) (k : Operand)
deriving DecidableEq, Repr

end Sys2Proof
end

