-- ==== Sys2Proof/WellFormed.lean ====
section
/-! DEFINITION. Which instruction terms stand for a word of the machine under a configuration: the side conditions the
encoding tables of spec 30 put on each row. -/

namespace Sys2Proof

/-- The combinations of K, L and N that have no meaning (30 R90, 45 R205): K = 7; K = 6 with L = 1 or 3; K = 4 or 5
with L = 1; K = 4 or 5 with L = 3 and N = 0. -/
def reservedMask (k : BitVec 3) (l : BitVec 2) (n : BitVec 1) : Bool :=
  k == 7 || (k == 6 && (l == 1 || l == 3)) || ((k == 4 || k == 5) && (l == 1 || (l == 3 && n == 0)))

/-- M is one of the values whose words are mask words: neither the flag class 0xC nor the misc class 0xE (30 R82). -/
def isMaskClass (m : BitVec 4) : Bool := m != 0xC && m != 0xE

/-- M names a valid digit range (30 R88, 45 R190). -/
def Config.hasRange (c : Config) (m : BitVec 4) : Bool := isMaskClass m && (c.range m).isSome

/-- Some misc code selects the operation (43 R160). -/
def Config.hasMisc (c : Config) (op : MiscOp) : Bool := c.miscMap.toList.contains (some op)

/-- The instruction is one that some word decodes to under `c`. -/
def Instr.wellFormed (c : Config) : Instr → Bool
  | .nopOor w => 0x1FFF < w
  | .br0 _ => true
  | .br1 _ => true
  | .call _ => true
  | .ytoa _ => c.hasMisc .ytoa
  | .rabi _ _ => c.hasMisc .rabi
  | .jmpR5 _ => c.hasMisc .jmpR5
  | .ret _ => c.hasMisc .ret
  | .atox _ => c.hasMisc .atox
  | .xtoa _ => c.hasMisc .xtoa
  | .atoy _ => c.hasMisc .atoy
  | .disp _ => c.hasMisc .disp
  | .dec _ => c.hasMisc .dec
  | .hex _ => c.hasMisc .hex
  | .rabR5 _ => c.hasMisc .rabR5
  | .miscRsv _ code => (c.misc code).isNone
  | .setf _ _ _ => true
  | .clrf _ _ _ => true
  | .tstf _ _ _ => true
  | .tglf _ _ _ => true
  | .nopM m _ => isMaskClass m && (c.range m).isNone
  | .maskRsv m _ k l n => c.hasRange m && reservedMask k l n
  | .shl m _ => c.hasRange m
  | .shr m _ => c.hasRange m
  | .shln m _ => c.hasRange m
  | .shrn m _ => c.hasRange m
  | .addj m _ _ => c.hasRange m
  | .subj m _ _ => c.hasRange m
  | .addk m _ _ => c.hasRange m
  | .subk m _ _ => c.hasRange m
  | .addn m _ _ => c.hasRange m
  | .subn m _ _ => c.hasRange m
  | .exch m _ _ => c.hasRange m
  | .stor m _ _ => c.hasRange m

end Sys2Proof
end

