-- ==== Sys2Proof/Decode.lean ====
section
/-! DEFINITION. The default tables of the configuration (spec 30 R88, 43 R160, 47 R241), the decoder (30 R81 to R90) and
after it the encoder. Each literal of the spec is one named constant (93 I13). -/

namespace Sys2Proof

/-! ### The spec's default configuration (00 R16) -/

/-- A range with the given bounds. -/
def validRange (lo hi : Fin 16) : Option DigitRange := some ⟨lo, hi⟩

/-- The default MASK_RANGE (30 R88): 0xC and 0xE are the flag and misc classes, 0xD and 0xF are INVALID. -/
def defaultMaskRange : Vector (Option DigitRange) 16 :=
  #v[validRange 0 0, validRange 1 1, validRange 0 1, validRange 2 2,
     validRange 2 12, validRange 0 12, validRange 12 12, validRange 13 13,
     validRange 14 14, validRange 15 15, validRange 13 15, validRange 0 15,
     none, none, none, none]

/-- The default MISC_MAP (43 R160): codes 0xB to 0xF are reserved. -/
def defaultMiscMap : Vector (Option MiscOp) 16 :=
  #v[some .ytoa, some .rabi, some .jmpR5, some .ret, some .atox, some .xtoa, some .atoy, some .disp,
     some .dec, some .hex, some .rabR5, none, none, none, none, none]

/-- The default KEY_CODE (47 R241): row in the high nibble, column in the low nibble. -/
def defaultKeyCode : Vector (Vector (BitVec 8) 5) 8 :=
  Vector.ofFn fun row => Vector.ofFn fun col => BitVec.ofNat 8 row <<< 4 ||| BitVec.ofNat 8 col

/-- Every parameter at the spec's default (00 R16). -/
def defaultConfig : Config where
  maskRange := defaultMaskRange
  miscMap := defaultMiscMap
  reservedAsNop := false
  keyCode := defaultKeyCode
  windows := []
  errorFlag := none
  popFill := .keep

/-! ### Class tests and fields -/

/-- The largest 13-bit word (30 R81, priority 0). -/
def maxOpcode : RomWord := 0x1FFF
/-- Mask of the branch and call tests (30 R81, priorities 1 and 2). -/
def controlMask : RomWord := 0x1800
/-- Value of a branch word under `controlMask`; the fixed bits of BR0 (30 R83). -/
def branchBits : RomWord := 0x1800
/-- op[10], the bit that tells BR1 from BR0 (30 R83). -/
def branchOnOne : RomWord := 0x0400
/-- Value of a call word under `controlMask` (30 R84). -/
def callBits : RomWord := 0x1000
/-- Mask of the misc and flag tests (30 R81, priorities 3 and 4). -/
def pageMask : RomWord := 0x1F00
/-- Value of a misc word under `pageMask` (30 R85). -/
def miscBits : RomWord := 0x0E00
/-- Value of a flag word under `pageMask` (30 R86). -/
def flagBits : RomWord := 0x0C00
/-- Mask of the masked-arithmetic test (30 R81, priority 5). -/
def maskClassMask : RomWord := 0x1000

/-- `op[lo + n - 1 : lo]` (00 R18). -/
def opField (w : RomWord) (lo n : Nat) : BitVec n := w.extractLsb' lo n

/-- The register with a 2-bit index: 0 = A, 1 = B, 2 = C, 3 = D (00 R21). -/
def regOfIndex (i : BitVec 2) : RegName :=
  match i.toNat with
  | 0 => .A
  | 1 => .B
  | 2 => .C
  | _ => .D

/-- The 2-bit index of a register (00 R21). -/
def regIndex : RegName → BitVec 2
  | .A => 0
  | .B => 1
  | .C => 2
  | .D => 3

/-- The code of K that makes a mask op a shift (30 R89). -/
def shiftCode : BitVec 3 := 6

/-- The right operand K names, for K = 0..5 (30 R89); 6 is the shift-encoding and 7 is reserved. -/
def operandOfCode (k : BitVec 3) : Option Operand :=
  match k.toNat with
  | 0 => some (.reg .A)
  | 1 => some (.reg .B)
  | 2 => some (.reg .C)
  | 3 => some (.reg .D)
  | 4 => some .one
  | 5 => some .r5
  | _ => none

/-- The K of a right operand (30 R89). -/
def operandCode : Operand → BitVec 3
  | .reg k => (regIndex k).setWidth 3
  | .one => 4
  | .r5 => 5

/-! ### The decoder -/

/-- A branch word: c = op[10] tells BR0 from BR1, a = op[9:0] (30 R83). -/
def decodeBranch (w : RomWord) : Instr :=
  if opField w 10 1 = 0 then .br0 (opField w 0 10) else .br1 (opField w 0 10)

/-- A misc word: code = op[3:0] selects the operation through MISC_MAP; aux = op[7:4] (30 R85, 43 R160). -/
def decodeMisc (c : Config) (w : RomWord) : Instr :=
  let aux := opField w 4 4
  match c.misc (opField w 0 4) with
  | some .ytoa => .ytoa aux
  | some .rabi => .rabi (opField w 7 1) (opField w 4 3)
  | some .jmpR5 => .jmpR5 aux
  | some .ret => .ret aux
  | some .atox => .atox aux
  | some .xtoa => .xtoa aux
  | some .atoy => .atoy aux
  | some .disp => .disp aux
  | some .dec => .dec aux
  | some .hex => .hex aux
  | some .rabR5 => .rabR5 aux
  | none => .miscRsv aux (opField w 0 4)

/-- A flag word: r = op[7:6], d = op[5:4], b = op[3:2], f = op[1:0] (30 R86). -/
def decodeFlag (w : RomWord) : Instr :=
  let r := regOfIndex (opField w 6 2)
  let d := opField w 4 2
  let b := opField w 2 2
  match (opField w 0 2).toNat with
  | 0 => .setf r d b
  | 1 => .clrf r d b
  | 2 => .tstf r d b
  | _ => .tglf r d b

/-- The row K = 6 of the grid of 30 R90. -/
def decodeShift (m : BitVec 4) (j : RegName) (l : BitVec 2) (n : BitVec 1) : Instr :=
  match l.toNat, n.toNat with
  | 0, 0 => .shl m j
  | 0, 1 => .shr m j
  | 2, 0 => .shln m j
  | 2, 1 => .shrn m j
  | _, _ => .maskRsv m j shiftCode l n

/-- The rows K = 0..5 of the grid of 30 R90. -/
def decodeArith (m : BitVec 4) (j : RegName) (k : Operand) (l : BitVec 2) (n : BitVec 1) : Instr :=
  match l.toNat, n.toNat, k with
  | 0, 0, k => .addj m j k
  | 0, 1, k => .subj m j k
  | 1, 0, .reg k => .addk m j k
  | 1, 1, .reg k => .subk m j k
  | 2, 0, k => .addn m j k
  | 2, 1, k => .subn m j k
  | 3, 0, .reg k => .exch m j k
  | 3, 1, k => .stor m j k
  | _, _, k => .maskRsv m j (operandCode k) l n

/-- A mask word: M = op[11:8], J = op[7:6], K = op[5:3], L = op[2:1], N = op[0] (30 R87). The range test comes first
(45 R190); then K, L and N select the instruction (30 R90). -/
def decodeMask (c : Config) (w : RomWord) : Instr :=
  let m := opField w 8 4
  let j := regOfIndex (opField w 6 2)
  let k := opField w 3 3
  let l := opField w 1 2
  let n := opField w 0 1
  match c.range m with
  | none => .nopM m (opField w 0 8)
  | some _ =>
    if k = shiftCode then decodeShift m j l n
    else match operandOfCode k with
      | some op => decodeArith m j op l n
      | none => .maskRsv m j k l n

/-- The instruction a ROM word is: the tests of 30 R81 in their order, first match wins. Total on every 16-bit word.
The last arm is priority 6, a no-op that no word reaches (30 R81, 41 R134). -/
def decode (c : Config) (w : RomWord) : Instr :=
  if maxOpcode < w then .nopOor w
  else if w &&& controlMask = branchBits then decodeBranch w
  else if w &&& controlMask = callBits then .call (opField w 0 11)
  else if w &&& pageMask = miscBits then decodeMisc c w
  else if w &&& pageMask = flagBits then decodeFlag w
  else if w &&& maskClassMask = 0 then decodeMask c w
  else .nopOor w

/-- `Refused(w)` (41 R131): the words 30 R93 marks "refused". A misc word whose code has no operation (43 R172), or a
mask word whose M has a range and whose K, L and N have no meaning (45 R205). -/
def refusedWord (c : Config) (w : RomWord) : Bool :=
  (w &&& 0xFF00 == miscBits && (c.misc (opField w 0 4)).isNone) ||
    (w < 0x1000 && c.hasRange (opField w 8 4) && reservedMask (opField w 3 3) (opField w 1 2) (opField w 0 1))

/-- Why a number that a loader hands over is no ROM word. -/
inductive DecodeError where
  /-- The number needs more than the 16 bits a ROM word is held in (20 R62, D1). Safe: the model runs nothing. -/
  | wordTooWide (w : Nat)
deriving DecidableEq, Repr

/-- Decode a number as one ROM word, rejecting by name what is none. -/
def decodeNat (c : Config) (w : Nat) : Except DecodeError Instr :=
  if w < 2 ^ 16 then .ok (decode c (BitVec.ofNat 16 w)) else .error (.wordTooWide w)

/-- The instruction the decoder reads, under the default configuration, from the `nbits` bits `w` that
spec/opcode_table.json gives a row; the bits above `nbits` are 0. -/
def decodeTableWord (nbits w : Nat) : Option Instr :=
  match decodeNat defaultConfig (w % 2 ^ nbits) with
  | .ok i => some i
  | .error _ => none

/-! ### The encoder -/

/-- The lowest misc code that selects `op` under `c`; 0 where none does, which `Instr.wellFormed` excludes (log entry
31). -/
def miscCode (c : Config) (op : MiscOp) : BitVec 4 := BitVec.ofNat 4 (c.miscMap.toList.idxOf (some op) % 16)

/-- `0x0E00 | (aux << 4) | code` (30 R85). -/
def encodeMisc (aux code : BitVec 4) : RomWord := miscBits ||| aux.setWidth 16 <<< 4 ||| code.setWidth 16

/-- `0x0C00 | (r << 6) | (d << 4) | (b << 2) | f` (30 R86). -/
def encodeFlag (r : RegName) (d b f : BitVec 2) : RomWord :=
  flagBits ||| (regIndex r).setWidth 16 <<< 6 ||| d.setWidth 16 <<< 4 ||| b.setWidth 16 <<< 2 ||| f.setWidth 16

/-- `(M << 8) | (J << 6) | (K << 3) | (L << 1) | N` (30 R87). -/
def encodeMask (m : BitVec 4) (j : RegName) (k : BitVec 3) (l : BitVec 2) (n : BitVec 1) : RomWord :=
  m.setWidth 16 <<< 8 ||| (regIndex j).setWidth 16 <<< 6 ||| k.setWidth 16 <<< 3 ||| l.setWidth 16 <<< 1 |||
    n.setWidth 16

/-- The word of an instruction under a configuration, by the assembly formulas of 30 R83 to R87. -/
def encode (c : Config) : Instr → RomWord
  | .nopOor w => w
  | .br0 a => branchBits ||| a.setWidth 16
  | .br1 a => branchBits ||| branchOnOne ||| a.setWidth 16
  | .call a => callBits ||| a.setWidth 16
  | .ytoa aux => encodeMisc aux (miscCode c .ytoa)
  | .rabi op7 n => encodeMisc (op7.setWidth 4 <<< 3 ||| n.setWidth 4) (miscCode c .rabi)
  | .jmpR5 aux => encodeMisc aux (miscCode c .jmpR5)
  | .ret aux => encodeMisc aux (miscCode c .ret)
  | .atox aux => encodeMisc aux (miscCode c .atox)
  | .xtoa aux => encodeMisc aux (miscCode c .xtoa)
  | .atoy aux => encodeMisc aux (miscCode c .atoy)
  | .disp aux => encodeMisc aux (miscCode c .disp)
  | .dec aux => encodeMisc aux (miscCode c .dec)
  | .hex aux => encodeMisc aux (miscCode c .hex)
  | .rabR5 aux => encodeMisc aux (miscCode c .rabR5)
  | .miscRsv aux code => encodeMisc aux code
  | .setf r d b => encodeFlag r d b 0
  | .clrf r d b => encodeFlag r d b 1
  | .tstf r d b => encodeFlag r d b 2
  | .tglf r d b => encodeFlag r d b 3
  | .nopM m rest => m.setWidth 16 <<< 8 ||| rest.setWidth 16
  | .maskRsv m j k l n => encodeMask m j k l n
  | .shl m j => encodeMask m j shiftCode 0 0
  | .shr m j => encodeMask m j shiftCode 0 1
  | .shln m j => encodeMask m j shiftCode 2 0
  | .shrn m j => encodeMask m j shiftCode 2 1
  | .addj m j k => encodeMask m j (operandCode k) 0 0
  | .subj m j k => encodeMask m j (operandCode k) 0 1
  | .addk m j k => encodeMask m j (operandCode (.reg k)) 1 0
  | .subk m j k => encodeMask m j (operandCode (.reg k)) 1 1
  | .addn m j k => encodeMask m j (operandCode k) 2 0
  | .subn m j k => encodeMask m j (operandCode k) 2 1
  | .exch m j k => encodeMask m j (operandCode (.reg k)) 3 0
  | .stor m j k => encodeMask m j (operandCode k) 3 1

end Sys2Proof
end

