-- ==== Sys2Proof/Machine/State.lean ====
section
/-! DEFINITION. The machine's state (spec 10 R30), the state right after reset (70 R270), and the reasons a step can
stop. -/

namespace Sys2Proof.Machine

/-- The ROM as supplied: pairs of an address and its 16-bit word (20 R60, R62), word-addressed because the core has no
bytes (20 R65). Canonical form: addresses strictly rising and below 2048 (`Memory.wf`, Machine/Ops.lean). An address not
listed has no word: the spec gives no ROM image (00 R16), and fetching there faults (log entry 2). -/
abbrev Memory := List (Nat × RomWord)

/-- The state of the core (10 R30), with the parameters of the step relation that the fixed type of `step` leaves no
other place for (log entry 1), and the model's draw counter (log entry 11). -/
structure State where
  /-- Operational register A (10 R30, R32). -/
  a : Reg
  /-- Operational register B (10 R30, R32). -/
  b : Reg
  /-- Operational register C; its digit 15 gives the mode (10 R30, 46 R220). -/
  c : Reg
  /-- Operational register D (10 R30, R32). -/
  d : Reg
  /-- Storage registers X[0..7] (10 R30, R33). -/
  x : Vector Reg 8
  /-- Storage registers Y[0..7] (10 R30, R33). -/
  y : Vector Reg 8
  /-- RAB, which X/Y pair is active (10 R34). -/
  rab : BitVec 3
  /-- R5, the auxiliary register (10 R35). -/
  r5 : BitVec 8
  /-- The program counter (10 R38). -/
  pc : Addr
  /-- S[0], the most recent return address (10 R39). -/
  s0 : Addr
  /-- S[1] (10 R39). -/
  s1 : Addr
  /-- S[2], the oldest return address (10 R39). -/
  s2 : Addr
  /-- COND, the conditional latch (10 R36). -/
  cond : Bool
  /-- is_hex, the arithmetic base selector (10 R37). -/
  isHex : Bool
  /-- key_row, 0..7 (10 R41). -/
  keyRow : Fin 8
  /-- key_col, 0..4 (10 R41). -/
  keyCol : Fin 5
  /-- key_pressed (10 R41). -/
  keyPressed : Bool
  /-- Display latch dA (10 R42). -/
  dA : Reg
  /-- Display latch dB (10 R42). -/
  dB : Reg
  /-- display_valid: whether a DISP has run since reset (10 R42). -/
  displayValid : Bool
  /-- The ROM image (00 R17); no transition changes it (20 R69, 70 R270). -/
  rom : Memory
  /-- The configuration parameters (00 R16); no transition changes them (70 R270). -/
  cfg : Config
  /-- How many free values pops have drawn under pop_fill = DRAW (10 R40); the model's own field. -/
  draws : Nat
deriving DecidableEq, Repr

/-- The machine right after `init` (70 R270), with no ROM supplied and every parameter at the spec's default. -/
def State.reset : State where
  a := Reg.zero
  b := Reg.zero
  c := Reg.zero
  d := Reg.zero
  x := Vector.replicate 8 Reg.zero
  y := Vector.replicate 8 Reg.zero
  rab := 0
  r5 := 0
  pc := 0
  s0 := 0
  s1 := 0
  s2 := 0
  cond := false
  isHex := false
  keyRow := 0
  keyCol := 0
  keyPressed := false
  dA := Reg.zero
  dB := Reg.zero
  displayValid := false
  rom := []
  cfg := defaultConfig
  draws := 0

/-- Why the machine stops with a fault. The hardware has none (60 R250); this one is the model's. -/
inductive Fault where
  /-- Raised by the fetch: no ROM word has been supplied for the address (log entry 2). Safe: the model stops where a
  machine with a whole ROM goes on. -/
  | romAbsent (addr : Addr)
deriving DecidableEq, Repr

/-- Why a step or a host action has no meaning (41 R137, 60 R252). -/
inductive Refusal where
  /-- Raised by the dispatcher for an instruction without a meaning; no arm uses it in this model. Safe. -/
  | notModelled (mnemonic : String)
  /-- Raised by a misc word with no operation when reserved_as_nop is false, with the word's address and the word
  (43 R172, 41 R137). Safe: a run that reaches it proves nothing. -/
  | reservedMisc (addr : Addr) (word : RomWord)
  /-- Raised by a reserved mask word when reserved_as_nop is false, with the word's address and the word (45 R205, 41
  R137). Safe: a run that reaches it proves nothing. -/
  | reservedMask (addr : Addr) (word : RomWord)
  /-- Raised by the host action key_press with coordinates outside 0..7 and 0..4 (47 R236). Safe. -/
  | badKey (row col : Nat)
  /-- Raised when a configuration is supplied that breaks 30 R88, 46 R222 or 46 R226. Safe. -/
  | badConfig
  /-- Raised when a ROM image is supplied that is not 2048 words of 16 bits (00 R15, R17). Safe. -/
  | badImage (length : Nat)
deriving DecidableEq, Repr

/-- The outcome type of every meaning. -/
abbrev Result := Host.Outcome State Fault Refusal

end Sys2Proof.Machine
end

