-- ==== Sys2Proof/Machine/Ops.lean ====
section
/-! DEFINITION. The named operations every meaning goes through: the ROM (spec 20), the operational and storage
registers (10 R32 to R34), the control registers, the return stack (10 R39, R40), the key and display latches (10 R41,
R42), and writing a digit range (40 R111). The core takes no exception (60 R250 to R254), so there is none here. -/

namespace Sys2Proof

/-- The register that holds the digits of `new` on [lo, hi] and those of `old` elsewhere (40 R111). -/
def Reg.splice (rg : DigitRange) (new old : Reg) : Reg :=
  Reg.ofFn fun i => if rg.lo.val ≤ i ∧ i ≤ rg.hi.val then new.digit i else old.digit i

/-- `r` with digit `i` replaced by `v`. -/
def Reg.setDigit (r : Reg) (i : Nat) (v : Digit) : Reg := Reg.ofFn fun n => if n = i then v else r.digit n

end Sys2Proof

namespace Sys2Proof.Machine

/-! ### The ROM (20 R60, R62) -/

/-- The canonical form: addresses strictly rising and below 2048. An unlisted address has no word, so no entry can
equal what it reads as. -/
def Memory.wf (m : Memory) : Bool :=
  decide (m.Pairwise fun p q => p.1 < q.1) && m.all fun p => decide (p.1 < 2048)

/-- The word listed for an address, if any. -/
def Memory.read (m : Memory) (addr : Addr) : Option RomWord := m.lookup addr.toNat

/-- List `w` for the key `n`, keeping the keys in rising order. -/
def Memory.insert (n : Nat) (w : RomWord) : Memory → Memory
  | [] => [(n, w)]
  | (k, v) :: rest =>
    if n < k then (n, w) :: (k, v) :: rest
    else if n = k then (n, w) :: rest
    else (k, v) :: Memory.insert n w rest

/-- Supply the word of an address. Only the host supplies ROM words; no instruction writes the ROM (20 R69). -/
def Memory.write (m : Memory) (addr : Addr) (w : RomWord) : Memory := Memory.insert addr.toNat w m

/-- `MemRead(pc, 1)`, the only memory read of the machine (20 R62); `none` where no word has been supplied. -/
def fetch (s : State) : Option RomWord := s.rom.read s.pc

/-- Replace the ROM. -/
def State.setRom (s : State) (m : Memory) : State := { s with rom := m }

/-! ### Operational and storage registers -/

/-- `REG(j)` (00 R20, R21). -/
def State.reg (s : State) : RegName → Reg
  | .A => s.a
  | .B => s.b
  | .C => s.c
  | .D => s.d

/-- Write a whole operational register. -/
def State.setReg (s : State) (r : RegName) (v : Reg) : State :=
  { s with
    a := if r = .A then v else s.a
    b := if r = .B then v else s.b
    c := if r = .C then v else s.c
    d := if r = .D then v else s.d }

/-- `X[RAB]` (10 R33). -/
def State.activeX (s : State) : Reg := s.x.get s.rab.toFin

/-- `Y[RAB]` (10 R33). -/
def State.activeY (s : State) : Reg := s.y.get s.rab.toFin

/-- `X[RAB] ← v` (43 R165). -/
def State.setActiveX (s : State) (v : Reg) : State := { s with x := s.x.set s.rab.toNat v }

/-- `Y[RAB] ← v` (43 R167). -/
def State.setActiveY (s : State) (v : Reg) : State := { s with y := s.y.set s.rab.toNat v }

/-- `for i in lo..hi: dest[i] ← t[i]`; a null destination changes no register (40 R104, R111). -/
def State.writeRange (s : State) (dest : Option RegName) (rg : DigitRange) (t : Reg) : State :=
  match dest with
  | none => s
  | some r => s.setReg r (Reg.splice rg t (s.reg r))

/-! ### Control registers -/

/-- `RAB ← v` (10 R34). -/
def State.setRab (s : State) (v : BitVec 3) : State := { s with rab := v }

/-- `R5 ← v` (10 R35). -/
def State.setR5 (s : State) (v : BitVec 8) : State := { s with r5 := v }

/-- `pc ← target` (00 R20). -/
def State.setPc (s : State) (target : Addr) : State := { s with pc := target }

/-- `pc ← (pc + 1) mod 2048` (41 R132). -/
def State.advance (s : State) : State := s.setPc (s.pc + 1)

/-- Write COND (10 R36). -/
def State.setCond (s : State) (v : Bool) : State := { s with cond := v }

/-- Write is_hex (10 R37). -/
def State.setHex (s : State) (v : Bool) : State := { s with isHex := v }

/-! ### The return stack -/

/-- Write the three slots and the draw counter. -/
def State.setStack (s : State) (v0 v1 v2 : Addr) (draws : Nat) : State :=
  { s with s0 := v0, s1 := v1, s2 := v2, draws := draws }

/-- `Push(v)`: the old S[2] is lost (10 R39). -/
def State.push (s : State) (v : Addr) : State := s.setStack v s.s0 s.s1 s.draws

/-- `Pop()` with its result, S[0], still to be read from the state before it (10 R40). Under pop_fill = DRAW the bottom
slot holds a free value, a fresh one for each pop. -/
def State.pop (s : State) : State :=
  match s.cfg.popFill with
  | .keep => s.setStack s.s1 s.s2 s.s2 s.draws
  | .draw => s.setStack s.s1 s.s2 (Config.freeSlot s.draws) (s.draws + 1)

/-! ### Key and display latches -/

/-- Write the key latch (10 R41). -/
def State.setKey (s : State) (row : Fin 8) (col : Fin 5) (pressed : Bool) : State :=
  { s with keyRow := row, keyCol := col, keyPressed := pressed }

/-- Latch two registers for the display and mark the display valid (10 R42, 43 R168). -/
def State.latchDisplay (s : State) (vA vB : Reg) : State := { s with dA := vA, dB := vB, displayValid := true }

/-- KEY_CODE(key_row, key_col) (47 R241). -/
def State.scanCode (s : State) : BitVec 8 := (s.cfg.keyCode.get s.keyRow).get s.keyCol

end Sys2Proof.Machine
end

