-- ==== Sys2Proof/Machine/Flags.lean ====
section
/-! DEFINITION. COND, the arithmetic base and the R5 refresh: what an operation leaves in the machine's status (spec 10
R35 to R37; 40 R100, R103, R109). -/

namespace Sys2Proof.Machine

/-- Set COND to 1 when the event happened and leave it as it was otherwise (40 R103, 44 R183, 70 R276). -/
def State.raiseCond (s : State) (event : Bool) : State := s.setCond (s.cond || event)

/-- `COND ← 0`: branches, CALL and RET only (10 R36). -/
def State.clearCond (s : State) : State := s.setCond false

/-- `Base(lo)`: 16 if lo ≥ 13 or is_hex = 1, otherwise 10 (40 R100). -/
def State.base (s : State) (rg : DigitRange) : Nat := if 13 ≤ rg.lo.val ∨ s.isHex then 16 else 10

/-- The value RefreshR5 takes from `r`: digit lo in the low nibble, digit lo + 1 in the high nibble when hi > lo and 0
there otherwise (40 R109). -/
def refreshValue (r : Reg) (rg : DigitRange) : BitVec 8 :=
  (if rg.lo < rg.hi then r.digit (rg.lo.val + 1) else 0) ++ r.digit rg.lo.val

/-- `RefreshR5(r, lo, hi)` (40 R109). -/
def State.refreshR5 (s : State) (r : Reg) (rg : DigitRange) : State := s.setR5 (refreshValue r rg)

end Sys2Proof.Machine
end

