-- ==== Sys2Proof/Machine/Operands.lean ====
section
/-! DEFINITION. Every operand form: the right operand of a mask op (spec 30 R89, 45 R192), the flag digit and bit (44
R180), the branch, call and indirect targets (42 R153). -/

namespace Sys2Proof.Machine

/-- The constant-1 register: digit lo is 1, every other digit 0 (45 R192, K = 4). -/
def oneRegister (rg : DigitRange) : Reg := Reg.ofFn fun i => if i = rg.lo.val then 1 else 0

/-- The register built from R5: digit lo is R5[3:0], digit lo + 1 is R5[7:4] when hi > lo, every other digit 0 (45
R192, K = 5). -/
def r5Register (r5 : BitVec 8) (rg : DigitRange) : Reg :=
  Reg.ofFn fun i =>
    if i = rg.lo.val then r5.extractLsb' 0 4
    else if i = rg.lo.val + 1 ∧ rg.lo < rg.hi then r5.extractLsb' 4 4
    else 0

/-- `RightOperand(K, lo, hi)` for K = 0..5 (45 R192), read before the step's own R5 refresh. -/
def rightOperand (s : State) (k : Operand) (rg : DigitRange) : Reg :=
  match k with
  | .reg r => s.reg r
  | .one => oneRegister rg
  | .r5 => r5Register s.r5 rg

/-- The digit a flag op names: 12 + d (44 R180). -/
def flagDigit (d : BitVec 2) : Nat := 12 + d.toNat

/-- The weight of the bit a flag op names: `1 << b` within the digit (44 R180). -/
def flagBit (b : BitVec 2) : Digit := 1 <<< b.toNat

/-- `pc & 0x400`, the page a branch stays in (42 R150). -/
def branchPageMask : Addr := 0x400

/-- `(pc & 0x400) or a`, with pc already incremented (42 R150). -/
def branchTarget (pc : Addr) (a : BitVec 10) : Addr := pc &&& branchPageMask ||| a.setWidth 11

/-- `zext_11(R5)` (43 R163). -/
def r5Target (r5 : BitVec 8) : Addr := r5.setWidth 11

/-- `R5 & 0x7` (43 R171). -/
def r5Rab (r5 : BitVec 8) : BitVec 3 := r5.extractLsb' 0 3

end Sys2Proof.Machine
end

