-- ==== Sys2Proof/Machine/Control.lean ====
section
/-! DEFINITION. The out-of-range no-op (spec 41 R133), the branches and CALL (42). As every meaning, these run after the
increment of 41 R131: `s.pc` is the address of the word plus one (log entry 26). -/

namespace Sys2Proof.Machine

/-- A word above 0x1FFF changes nothing beyond the increment (41 R133). -/
def execNopOor (_w : RomWord) (s : State) : Result := .next s

/-- What BR0 and BR1 share: taken when COND equals op[10]; COND is cleared, taken or not (42 R150, R151). -/
def branchIf (op10 : Bool) (a : BitVec 10) (s : State) : State :=
  (if s.cond = op10 then s.setPc (branchTarget s.pc a) else s).clearCond

/-- BR0 (42 R150). -/
def execBr0 (a : BitVec 10) (s : State) : Result := .next (branchIf false a s)

/-- BR1 (42 R151). -/
def execBr1 (a : BitVec 10) (s : State) : Result := .next (branchIf true a s)

/-- CALL: push the incremented pc, jump, clear COND (42 R152). -/
def execCall (a : BitVec 11) (s : State) : Result := .next (((s.push s.pc).setPc a).clearCond)

end Sys2Proof.Machine
end

