-- ==== Sys2Proof/Machine/FlagOps.lean ====
section
/-! DEFINITION. The flag operations (spec 44): one bit of one of digits 12..15 of A, B, C or D. None writes R5 and none
clears COND (44 R180). -/

namespace Sys2Proof.Machine

/-- Replace the flag digit `12 + d` of a register by `f` of it (44 R180). -/
def State.updateFlag (s : State) (r : RegName) (d : BitVec 2) (f : Digit → Digit) : State :=
  s.setReg r ((s.reg r).setDigit (flagDigit d) (f ((s.reg r).digit (flagDigit d))))

/-- SETF: the bit becomes 1 (44 R181). -/
def execSetf (r : RegName) (d b : BitVec 2) (s : State) : Result := .next (s.updateFlag r d (· ||| flagBit b))

/-- CLRF: the bit becomes 0 (44 R182); `0xF - (1 << b)` is the complement of the bit's weight. -/
def execClrf (r : RegName) (d b : BitVec 2) (s : State) : Result :=
  .next (s.updateFlag r d (· &&& (0xF - flagBit b)))

/-- TSTF: COND ← 1 when the bit is 1, else unchanged; the register is not changed (44 R183). -/
def execTstf (r : RegName) (d b : BitVec 2) (s : State) : Result :=
  .next (s.raiseCond ((s.reg r).digit (flagDigit d) >>> b.toNat &&& 1 == 1))

/-- TGLF: the bit is inverted (44 R184). -/
def execTglf (r : RegName) (d b : BitVec 2) (s : State) : Result := .next (s.updateFlag r d (· ^^^ flagBit b))

end Sys2Proof.Machine
end

