-- ==== Sys2Proof/Machine/Alu.lean ====
section
/-! DEFINITION. The digit arithmetic unit (spec 40): the six primitives over a digit range. Each computes its scratch
register `t` from the digits before the step, then writes (40 R112), and ends with the R5 refresh (40 R109, R110). -/

namespace Sys2Proof.Machine

/-- One digit of an add: the result digit and the carry out (40 R101). `BitVec.ofNat 4` is the rule's mod 16, which
matters only for a digit above 9 in base 10 (40 R113). -/
def addDigit (base : Nat) (x y : Digit) (carry : Bool) : Digit × Bool :=
  let s := x.toNat + y.toNat + carry.toNat
  if base ≤ s then (BitVec.ofNat 4 (s - base), true) else (BitVec.ofNat 4 s, false)

/-- One digit of a subtract, x the minuend: the result digit and the borrow out (40 R102, R113). -/
def subDigit (base : Nat) (x y : Digit) (borrow : Bool) : Digit × Bool :=
  let s : Int := x.toNat - y.toNat - borrow.toNat
  if s < 0 then (BitVec.ofInt 4 (s + base), true) else (BitVec.ofInt 4 s, false)

/-- The carry (or borrow) into digit lo + n: 0 into digit lo, then from digit to digit toward hi (40 R101, R102). -/
def carryInto (digit : Digit → Digit → Bool → Digit × Bool) (left right : Reg) (lo : Nat) : Nat → Bool
  | 0 => false
  | n + 1 => (digit (left.digit (lo + n)) (right.digit (lo + n)) (carryInto digit left right lo n)).2

/-- The scratch register of an add or subtract on [lo, hi]. Its digits outside the range are never read. -/
def rippleDigits (digit : Digit → Digit → Bool → Digit × Bool) (left right : Reg) (rg : DigitRange) : Reg :=
  Reg.ofFn fun i =>
    if rg.lo.val ≤ i ∧ i ≤ rg.hi.val then
      (digit (left.digit i) (right.digit i) (carryInto digit left right rg.lo.val (i - rg.lo.val))).1
    else 0

/-- The carry (or borrow) out of digit hi. -/
def rippleOut (digit : Digit → Digit → Bool → Digit × Bool) (left right : Reg) (rg : DigitRange) : Bool :=
  carryInto digit left right rg.lo.val (rg.hi.val + 1 - rg.lo.val)

/-- What Add and Subtract share: write the scratch, raise COND on a carry or borrow out of digit hi, refresh R5 from the
scratch (40 R101 to R104). -/
def opRipple (digit : Digit → Digit → Bool → Digit × Bool) (dest : Option RegName) (left right : Reg)
    (rg : DigitRange) (s : State) : State :=
  let t := rippleDigits digit left right rg
  ((s.writeRange dest rg t).raiseCond (rippleOut digit left right rg)).refreshR5 t rg

/-- `Add(dest, left, right, lo, hi)` (40 R101). -/
def opAdd (dest : Option RegName) (left right : Reg) (rg : DigitRange) (s : State) : State :=
  opRipple (addDigit (s.base rg)) dest left right rg s

/-- `Subtract(dest, left, right, lo, hi)` (40 R102). -/
def opSub (dest : Option RegName) (left right : Reg) (rg : DigitRange) (s : State) : State :=
  opRipple (subDigit (s.base rg)) dest left right rg s

/-- The scratch of a left shift: each digit from the one below it, 0 into digit lo (40 R105). -/
def shiftedLeft (src : Reg) (rg : DigitRange) : Reg :=
  Reg.ofFn fun i => if rg.lo.val < i ∧ i ≤ rg.hi.val then src.digit (i - 1) else 0

/-- The scratch of a right shift: each digit from the one above it, 0 into digit hi (40 R106). -/
def shiftedRight (src : Reg) (rg : DigitRange) : Reg :=
  Reg.ofFn fun i => if rg.lo.val ≤ i ∧ i < rg.hi.val then src.digit (i + 1) else 0

/-- `ShiftLeft(dest, src, lo, hi)`; COND is not changed (40 R105). -/
def opShiftLeft (dest : Option RegName) (src : Reg) (rg : DigitRange) (s : State) : State :=
  (s.writeRange dest rg (shiftedLeft src rg)).refreshR5 (shiftedLeft src rg) rg

/-- `ShiftRight(dest, src, lo, hi)`; COND is not changed (40 R106). -/
def opShiftRight (dest : Option RegName) (src : Reg) (rg : DigitRange) (s : State) : State :=
  (s.writeRange dest rg (shiftedRight src rg)).refreshR5 (shiftedRight src rg) rg

/-- `Exchange(left, right, lo, hi)`: R5 from the right register after the swap; COND is not changed (40 R107). -/
def opExchange (left right : RegName) (rg : DigitRange) (s : State) : State :=
  let swapped := (s.writeRange (some left) rg (s.reg right)).writeRange (some right) rg (s.reg left)
  swapped.refreshR5 (swapped.reg right) rg

/-- `Store(dest, src, lo, hi)`: R5 from the source; COND is not changed (40 R108). -/
def opStore (dest : RegName) (src : Reg) (rg : DigitRange) (s : State) : State :=
  (s.writeRange (some dest) rg src).refreshR5 src rg

end Sys2Proof.Machine
end

