-- ==== Sys2Proof/Machine/Misc.lean ====
section
/-! DEFINITION. The misc operations (spec 43). Only DISP writes R5 and only RET and DISP write COND (43 R160). -/

namespace Sys2Proof.Machine

/-- YTOA: A ← Y[RAB], all 16 digits (43 R161). -/
def execYtoa (_aux : BitVec 4) (s : State) : Result := .next (s.setReg .A s.activeY)

/-- RABI n: RAB ← op[6:4]; op[7] is ignored (43 R162). -/
def execRabi (_op7 : BitVec 1) (n : BitVec 3) (s : State) : Result := .next (s.setRab n)

/-- JMPR5: pc ← zext_11(R5); COND and the stack unchanged (43 R163). -/
def execJmpR5 (_aux : BitVec 4) (s : State) : Result := .next (s.setPc (r5Target s.r5))

/-- RET: pc ← Pop(), COND ← 0 (43 R164). -/
def execRet (_aux : BitVec 4) (s : State) : Result := .next ((s.pop.setPc s.s0).clearCond)

/-- ATOX: X[RAB] ← A (43 R165). -/
def execAtox (_aux : BitVec 4) (s : State) : Result := .next (s.setActiveX s.a)

/-- XTOA: A ← X[RAB] (43 R166). -/
def execXtoa (_aux : BitVec 4) (s : State) : Result := .next (s.setReg .A s.activeX)

/-- ATOY: Y[RAB] ← A (43 R167). -/
def execAtoy (_aux : BitVec 4) (s : State) : Result := .next (s.setActiveY s.a)

/-- The key scan of DISP: with a key pressed, R5 ← KEY_CODE(key_row, key_col) and COND ← 1 (43 R168). -/
def State.scanKey (s : State) : State := if s.keyPressed then (s.setR5 s.scanCode).raiseCond true else s

/-- DISP: latch A and B into dA and dB, then scan the keyboard (43 R168). -/
def execDisp (_aux : BitVec 4) (s : State) : Result := .next (s.latchDisplay s.a s.b).scanKey

/-- DEC: is_hex ← 0 (43 R169). -/
def execDec (_aux : BitVec 4) (s : State) : Result := .next (s.setHex false)

/-- HEX: is_hex ← 1 (43 R170). -/
def execHex (_aux : BitVec 4) (s : State) : Result := .next (s.setHex true)

/-- RABR5: RAB ← R5 & 7 (43 R171). -/
def execRabR5 (_aux : BitVec 4) (s : State) : Result := .next (s.setRab (r5Rab s.r5))

/-- The address of the word being executed, whose increment has already happened (41 R131). -/
def State.fetchedAt (s : State) : Addr := s.pc - 1

/-- MISC-RSV: a no-op when reserved_as_nop is true; otherwise refused, with the address and the word (43 R172, 41
R137). -/
def execMiscRsv (aux code : BitVec 4) (s : State) : Result :=
  if s.cfg.reservedAsNop then .next s else .refused (.reservedMisc s.fetchedAt (encodeMisc aux code))

end Sys2Proof.Machine
end

