-- ==== Sys2Proof/Machine/Mask.lean ====
section
/-! DEFINITION. The masked arithmetic operations (spec 45), each one primitive of Machine/Alu.lean on the range M names.
With an INVALID M every mask word is a no-op, whatever its other fields hold (45 R190, R206). -/

namespace Sys2Proof.Machine

/-- Run `op` on MASK_RANGE(M), or do nothing when it is INVALID (45 R190). -/
def onRange (m : BitVec 4) (op : DigitRange → State → State) (s : State) : Result :=
  match s.cfg.range m with
  | none => .next s
  | some rg => .next (op rg s)

/-- NOP-M: only the pc increment happens (45 R206). -/
def execNopM (_m : BitVec 4) (_rest : BitVec 8) (s : State) : Result := .next s

/-- MASK-RSV: with a valid M, a no-op when reserved_as_nop is true and refused otherwise, with the address and the word
(45 R205, 41 R137). -/
def execMaskRsv (m : BitVec 4) (j : RegName) (k : BitVec 3) (l : BitVec 2) (n : BitVec 1) (s : State) : Result :=
  match s.cfg.range m with
  | none => .next s
  | some _ =>
    if s.cfg.reservedAsNop then .next s else .refused (.reservedMask s.fetchedAt (encodeMask m j k l n))

/-- ADDJ: J ← J + K (45 R193). -/
def execAddj (m : BitVec 4) (j : RegName) (k : Operand) (s : State) : Result :=
  onRange m (fun rg s => opAdd (some j) (s.reg j) (rightOperand s k rg) rg s) s

/-- ADDK: K ← J + K (45 R194). -/
def execAddk (m : BitVec 4) (j k : RegName) (s : State) : Result :=
  onRange m (fun rg s => opAdd (some k) (s.reg j) (s.reg k) rg s) s

/-- ADDN: J + K, discarded (45 R195). -/
def execAddn (m : BitVec 4) (j : RegName) (k : Operand) (s : State) : Result :=
  onRange m (fun rg s => opAdd none (s.reg j) (rightOperand s k rg) rg s) s

/-- SUBJ: J ← J - K (45 R196). -/
def execSubj (m : BitVec 4) (j : RegName) (k : Operand) (s : State) : Result :=
  onRange m (fun rg s => opSub (some j) (s.reg j) (rightOperand s k rg) rg s) s

/-- SUBK: K ← J - K (45 R197). -/
def execSubk (m : BitVec 4) (j k : RegName) (s : State) : Result :=
  onRange m (fun rg s => opSub (some k) (s.reg j) (s.reg k) rg s) s

/-- SUBN: J - K, discarded: a compare (45 R198). -/
def execSubn (m : BitVec 4) (j : RegName) (k : Operand) (s : State) : Result :=
  onRange m (fun rg s => opSub none (s.reg j) (rightOperand s k rg) rg s) s

/-- EXCH: exchange the ranges of J and K (45 R199). -/
def execExch (m : BitVec 4) (j k : RegName) (s : State) : Result :=
  onRange m (fun rg s => opExchange j k rg s) s

/-- STOR: J ← K (45 R200). -/
def execStor (m : BitVec 4) (j : RegName) (k : Operand) (s : State) : Result :=
  onRange m (fun rg s => opStore j (rightOperand s k rg) rg s) s

/-- SHL: shift J one digit toward hi (45 R201). -/
def execShl (m : BitVec 4) (j : RegName) (s : State) : Result :=
  onRange m (fun rg s => opShiftLeft (some j) (s.reg j) rg s) s

/-- SHR: shift J one digit toward lo (45 R202). -/
def execShr (m : BitVec 4) (j : RegName) (s : State) : Result :=
  onRange m (fun rg s => opShiftRight (some j) (s.reg j) rg s) s

/-- SHLN: shift left and discard (45 R203). -/
def execShln (m : BitVec 4) (j : RegName) (s : State) : Result :=
  onRange m (fun rg s => opShiftLeft none (s.reg j) rg s) s

/-- SHRN: shift right and discard (45 R204). -/
def execShrn (m : BitVec 4) (j : RegName) (s : State) : Result :=
  onRange m (fun rg s => opShiftRight none (s.reg j) rg s) s

end Sys2Proof.Machine
end

