-- ==== Sys2Proof/Machine/Dispatch.lean ====
section
/-! DEFINITION. The dispatcher: one arm per constructor of Instr, each one call of its meaning (spec 41 R134). -/

namespace Sys2Proof.Machine

def exec (i : Instr) (s : State) : Host.Outcome State Fault Refusal :=
  match i with
  | .nopOor w => Sys2Proof.Machine.execNopOor w s
  | .br0 a => Sys2Proof.Machine.execBr0 a s
  | .br1 a => Sys2Proof.Machine.execBr1 a s
  | .call a => Sys2Proof.Machine.execCall a s
  | .ytoa aux => Sys2Proof.Machine.execYtoa aux s
  | .rabi op7 n => Sys2Proof.Machine.execRabi op7 n s
  | .jmpR5 aux => Sys2Proof.Machine.execJmpR5 aux s
  | .ret aux => Sys2Proof.Machine.execRet aux s
  | .atox aux => Sys2Proof.Machine.execAtox aux s
  | .xtoa aux => Sys2Proof.Machine.execXtoa aux s
  | .atoy aux => Sys2Proof.Machine.execAtoy aux s
  | .disp aux => Sys2Proof.Machine.execDisp aux s
  | .dec aux => Sys2Proof.Machine.execDec aux s
  | .hex aux => Sys2Proof.Machine.execHex aux s
  | .rabR5 aux => Sys2Proof.Machine.execRabR5 aux s
  | .miscRsv aux code => Sys2Proof.Machine.execMiscRsv aux code s
  | .setf r d b => Sys2Proof.Machine.execSetf r d b s
  | .clrf r d b => Sys2Proof.Machine.execClrf r d b s
  | .tstf r d b => Sys2Proof.Machine.execTstf r d b s
  | .tglf r d b => Sys2Proof.Machine.execTglf r d b s
  | .nopM m rest => Sys2Proof.Machine.execNopM m rest s
  | .maskRsv m j k l n => Sys2Proof.Machine.execMaskRsv m j k l n s
  | .shl m j => Sys2Proof.Machine.execShl m j s
  | .shr m j => Sys2Proof.Machine.execShr m j s
  | .shln m j => Sys2Proof.Machine.execShln m j s
  | .shrn m j => Sys2Proof.Machine.execShrn m j s
  | .addj m j k => Sys2Proof.Machine.execAddj m j k s
  | .subj m j k => Sys2Proof.Machine.execSubj m j k s
  | .addk m j k => Sys2Proof.Machine.execAddk m j k s
  | .subk m j k => Sys2Proof.Machine.execSubk m j k s
  | .addn m j k => Sys2Proof.Machine.execAddn m j k s
  | .subn m j k => Sys2Proof.Machine.execSubn m j k s
  | .exch m j k => Sys2Proof.Machine.execExch m j k s
  | .stor m j k => Sys2Proof.Machine.execStor m j k s

end Sys2Proof.Machine
end

