-- ==== Sys2Proof/Machine/Step.lean ====
section
/-! DEFINITION. The execution driver `next` (spec 41 R131): fetch, increment pc, decode, execute. -/

namespace Sys2Proof.Machine

/-- One `next` (41 R131): the word at pc runs on the state whose pc is already incremented. A refused word leaves no
state, so the increment is not seen (41 R137). The cost it returns is `stepCost` (Machine/Cost.lean). -/
def step (s : State) : Host.Outcome State Fault Refusal :=
  match fetch s with
  | none => .fault (.romAbsent s.pc)
  | some w => exec (decode s.cfg w) s.advance

/-- The state with one ROM word supplied at pc, so that the next step runs it (log entry 3). The bits above `nbits` are
0. -/
def State.withFetchWord (s : State) (nbits w : Nat) : State :=
  s.setRom (s.rom.write s.pc (BitVec.ofNat 16 (w % 2 ^ nbits)))

end Sys2Proof.Machine
end

