-- ==== Sys2Proof/Machine/Asm.lean ====
section
/-! DEFINITION. The spec's own assembler syntax (30 R94) and pseudo-instructions (30 R95). Notation only: the machine
never reads it (92 D35). -/

namespace Sys2Proof

/-- The pseudo-instructions (30 R95). -/
inductive Pseudo where
  | nop
  | clr (m : BitVec 4) (j : RegName)
  | inc (m : BitVec 4) (j : RegName)
  | decr (m : BitVec 4) (j : RegName)
  | cmp (m : BitVec 4) (j : RegName) (k : Operand)
  | mov (m : BitVec 4) (j : RegName) (k : Operand)
  | jmp (a : BitVec 10)
deriving DecidableEq, Repr

/-- The expansion of a pseudo-instruction (30 R95). NOP is the word 0x0D00, a no-op only while MASK_RANGE(0xD) is
INVALID; JMP is BR1 then BR0 to the same in-page target. -/
def Pseudo.expand : Pseudo → List Instr
  | .nop => [.nopM 0xD 0]
  | .clr m j => [.subj m j (.reg j)]
  | .inc m j => [.addj m j .one]
  | .decr m j => [.subj m j .one]
  | .cmp m j k => [.subn m j k]
  | .mov m j k => [.stor m j k]
  | .jmp a => [.br1 a, .br0 a]

namespace Machine

/-- `BR0 t` or `BR1 t` at an address: the assembler requires t[10] = (address + 1)[10] and puts t[9:0] in a (30 R94). -/
def assembleBranch (op10 : Bool) (address t : Addr) : Option Instr :=
  if t &&& branchPageMask = (address + 1) &&& branchPageMask then
    some (if op10 then .br1 (t.setWidth 10) else .br0 (t.setWidth 10))
  else none

/-- A number in the syntax of 30 R94: `0x` and hexadecimal digits. -/
def hexText (n : Nat) : String := "0x" ++ String.ofList (Nat.toDigits 16 n)

/-- The name of a register. -/
def regText : RegName → String
  | .A => "A"
  | .B => "B"
  | .C => "C"
  | .D => "D"

/-- A right operand: a register, `#1` or `R5`. -/
def operandText : Operand → String
  | .reg k => regText k
  | .one => "#1"
  | .r5 => "R5"

/-- `OP Mm, j` (30 R94). -/
def shiftText (op : String) (m : BitVec 4) (j : RegName) : String :=
  op ++ " M" ++ (String.ofList (Nat.toDigits 16 m.toNat)).toUpper ++ ", " ++ regText j

/-- `OP Mm, j, k` (30 R94). -/
def maskText (op : String) (m : BitVec 4) (j : RegName) (k : Operand) : String :=
  shiftText op m j ++ ", " ++ operandText k

/-- `OP j[i].b` (30 R94). -/
def flagText (op : String) (r : RegName) (d b : BitVec 2) : String :=
  op ++ " " ++ regText r ++ "[" ++ toString (flagDigit d) ++ "]." ++ toString b.toNat

/-- The text of an instruction at an address (30 R94). The syntax has no form for the words that stand for no
instruction of it: those are shown by their table name. -/
def asmText (address : Addr) : Instr → String
  | .nopOor _ => "NOP-OOR"
  | .br0 a => "BR0 " ++ hexText (branchTarget (address + 1) a).toNat
  | .br1 a => "BR1 " ++ hexText (branchTarget (address + 1) a).toNat
  | .call a => "CALL " ++ hexText a.toNat
  | .ytoa _ => "YTOA"
  | .rabi _ n => "RABI " ++ toString n.toNat
  | .jmpR5 _ => "JMPR5"
  | .ret _ => "RET"
  | .atox _ => "ATOX"
  | .xtoa _ => "XTOA"
  | .atoy _ => "ATOY"
  | .disp _ => "DISP"
  | .dec _ => "DEC"
  | .hex _ => "HEX"
  | .rabR5 _ => "RABR5"
  | .miscRsv _ _ => "MISC-RSV"
  | .setf r d b => flagText "SETF" r d b
  | .clrf r d b => flagText "CLRF" r d b
  | .tstf r d b => flagText "TSTF" r d b
  | .tglf r d b => flagText "TGLF" r d b
  | .nopM _ _ => "NOP-M"
  | .maskRsv _ _ _ _ _ => "MASK-RSV"
  | .shl m j => shiftText "SHL" m j
  | .shr m j => shiftText "SHR" m j
  | .shln m j => shiftText "SHLN" m j
  | .shrn m j => shiftText "SHRN" m j
  | .addj m j k => maskText "ADDJ" m j k
  | .subj m j k => maskText "SUBJ" m j k
  | .addk m j k => maskText "ADDK" m j (.reg k)
  | .subk m j k => maskText "SUBK" m j (.reg k)
  | .addn m j k => maskText "ADDN" m j k
  | .subn m j k => maskText "SUBN" m j k
  | .exch m j k => maskText "EXCH" m j (.reg k)
  | .stor m j k => maskText "STOR" m j k

end Machine

end Sys2Proof
end

