-- ==== Sys2Proof/Machine/Cost.lean ====
section
/-! DEFINITION. The cycle cost `next` returns (spec 41 R135). An output: nothing in the machine reads it and it is not
stored (10 R44, log entry 23). -/

namespace Sys2Proof.Machine

/-- The literal of the cost pattern, tested on every word whatever its class (41 R135, 90 C2). -/
def costPattern : RomWord := 0x0E07

/-- `Cost(w)`: 32 if `(w & 0x0E07) = 0x0E07`, otherwise 1 (41 R135). -/
def cost (w : RomWord) : Nat := if w &&& costPattern = costPattern then 32 else 1

/-- The cost of the step that `s` takes next; `none` where no word can be fetched. -/
def stepCost (s : State) : Option Nat := (fetch s).map cost

end Sys2Proof.Machine
end

