-- ==== Sys2Proof/Machine/HostOps.lean ====
section
/-! DEFINITION. The host's side: `init` (spec 70 R270), `key_press` and `key_release` (47 R235 to R239), the display
output (47 R243), supplying the ROM and the configuration (00 R16, R17; 70 R273), and runs in which host actions stand
between the core's steps (41 R130). -/

namespace Sys2Proof

/-- The characters of the digits 0 to 15 (47 R243: `0-9A-F`). -/
def hexGlyphs : List Char := ['0', '1', '2', '3', '4', '5', '6', '7', '8', '9', 'A', 'B', 'C', 'D', 'E', 'F']

/-- The characters of one LED position: its glyph and, if its decimal point is lit, a full stop (47 R243). -/
def LedCell.chars (cell : LedCell) : List Char :=
  let glyph := match cell.glyph with
    | .hex v => hexGlyphs.getD v.toNat ' '
    | .blank => ' '
    | .minus => '-'
  if cell.point then [glyph, '.'] else [glyph]

end Sys2Proof

namespace Sys2Proof.Machine

/-- `init()`: every element of 10 R30 takes its reset value; the ROM and the parameters are not changed (70 R270). The
draws a run has made stay made (log entry 29). -/
def init (s : State) : State := { State.reset with rom := s.rom, cfg := s.cfg, draws := s.draws }

/-- `key_press(row, col)`: latch the key and set key_pressed, overwriting a key already pressed (47 R235, R237);
refused outside 0..7 and 0..4 (47 R236). -/
def keyPress (row col : Nat) (s : State) : Result :=
  if h : row < 8 ∧ col < 5 then .next (s.setKey ⟨row, h.1⟩ ⟨col, h.2⟩ true) else .refused (.badKey row col)

/-- `key_release()`: clear key_pressed only (47 R238, R239). -/
def keyRelease (s : State) : State := s.setKey s.keyRow s.keyCol false

/-- `get_display()`: 12 spaces until the first DISP, then DISPLAY_RENDER of the latches (47 R243). -/
def getDisplay (s : State) : List Char :=
  if s.displayValid then (Config.displayRender s.dA s.dB).toList.flatMap LedCell.chars
  else List.replicate 12 ' '

/-- The ROM whose word at address `n` is the `n`-th of the image, from address `from` on. -/
def romOfImage : Nat → List RomWord → Memory
  | _, [] => []
  | n, w :: rest => (n, w) :: romOfImage (n + 1) rest

/-- Supply a ROM image and a configuration to a machine just reset (70 R273): refused unless the configuration is one
30 R88, 46 R222 and 46 R226 admit and the image has 2048 words (00 R15). -/
def boot (c : Config) (image : List RomWord) : Result :=
  if ¬c.Wf then .refused .badConfig
  else if image.length ≠ 2048 then .refused (.badImage image.length)
  else .next { State.reset with rom := romOfImage 0 image, cfg := c }

/-- The transitions of the block (41 R130). -/
inductive Transition where
  | next
  | init
  | keyPress (row col : Nat)
  | keyRelease
deriving DecidableEq, Repr

/-- One atomic transition (41 R130). -/
def transition (t : Transition) (s : State) : Result :=
  match t with
  | .next => step s
  | .init => .next (init s)
  | .keyPress row col => keyPress row col s
  | .keyRelease => .next (keyRelease s)

/-- A finite run, transitions one at a time in the order given (41 R139, 47 R246); it stops at the first fault or
refusal. -/
def runTransitions : List Transition → State → Result
  | [], s => .next s
  | t :: ts, s =>
    match transition t s with
    | .next s' => runTransitions ts s'
    | .fault r => .fault r
    | .refused r => .refused r

/-- The time of `k` steps, the sum of their costs (70 R281): what a caller that accumulates the returned costs has. A
step without a next state adds nothing and ends the sum. -/
def runCost : Nat → State → Nat
  | 0, _ => 0
  | k + 1, s =>
    match step s with
    | .next s' => (stepCost s).getD 0 + runCost k s'
    | .fault _ => 0
    | .refused _ => 0

end Sys2Proof.Machine
end

