-- ==== Sys2Proof/Machine/Mode.lean ====
section
/-! DEFINITION. The derived outputs (spec 46): the mode and the activity, pure functions of the state that nothing in
the machine reads (46 R227) and nothing stores (10 R43). -/

namespace Sys2Proof

/-- `In(v, lo, hi)` (46 R223). -/
def Window.contains (w : Window) (v : Addr) : Bool := w.lo ≤ v && v ≤ w.hi

end Sys2Proof

namespace Sys2Proof.Machine

/-- The calculator's modes (46 R220). -/
inductive Mode where
  | lrn | run | eval
deriving DecidableEq, Repr

/-- The mode: LRN if bit 0 of C[15] is set, else RUN if bit 3 is set, else EVAL (46 R220). -/
def mode (s : State) : Mode :=
  if s.c.digit 15 &&& 1 ≠ 0 then .lrn
  else if s.c.digit 15 &&& 8 ≠ 0 then .run
  else .eval

/-- The activity values (46 R221). -/
inductive Activity where
  | busy | pause | long | pollRsRelease | pollRelease | pollPress | pollPressBlink
deriving DecidableEq, Repr

/-- Whether pc or any of the three stack slots lies in the window, stale slots included (46 R223, R225). -/
def inWindow (s : State) (w : Window) : Bool :=
  w.contains s.pc || w.contains s.s0 || w.contains s.s1 || w.contains s.s2

/-- `ErrorFlag(state)`; false when ERROR_FLAG is ABSENT (46 R224). -/
def errorFlag (s : State) : Bool :=
  match s.cfg.errorFlag with
  | none => false
  | some e => ((s.reg e.reg).digit e.digit.val).getLsbD e.bit.val

/-- The activity of a window's kind (46 R223). -/
def activityOf (s : State) : WindowKind → Activity
  | .pause => .pause
  | .long => .long
  | .rsRelease => .pollRsRelease
  | .keyRelease => .pollRelease
  | .keyPress => if errorFlag s then .pollPressBlink else .pollPress

/-- The window that decides the activity: the first in list order that matches (46 R223). -/
def activityWindow (s : State) : Option Window := s.cfg.windows.find? (inWindow s)

/-- The activity: that of the first window in list order that matches, BUSY if none does (46 R223). -/
def activity (s : State) : Activity :=
  match activityWindow s with
  | none => .busy
  | some w => activityOf s w.kind

end Sys2Proof.Machine
end

