-- ==== Sys2Proof/Safety.lean ====
section
/-! DEFINITION. What counts as a good state and a safe run, and the terms the claims are made in. -/

namespace Sys2Proof.Machine

/-- A word is supplied for every address of the ROM (00 R17). -/
def RomTotal (s : State) : Prop := ∀ p : Addr, (s.rom.read p).isSome = true

/-- The invariant: the ROM keeps its canonical form, the parameters are ones the spec admits (30 R88, 46 R222, R226),
and the display latches are as reset left them until the first DISP (10 R42, 70 R270). -/
abbrev State.Inv (s : State) : Prop :=
  s.rom.wf = true ∧ s.cfg.Wf ∧ (s.displayValid = false → s.dA = Reg.zero ∧ s.dB = Reg.zero)

/-- `next` has a successor state: the step neither faults nor refuses (41 R137, R139). -/
def StepRuns (s : State) : Prop := ∃ t, step s = .next t

/-! ### Idle polling (46 R228) -/

/-- The activity of `s` is a poll for key press, plain or blinking, decided by the window `w`, and no key is pressed
(46 R228). -/
def PollsForKeyPress (s : State) (w : Window) : Prop :=
  (activity s = .pollPress ∨ activity s = .pollPressBlink) ∧ activityWindow s = some w ∧ s.keyPressed = false

/-- pc stays in the window indefinitely: after any number of steps the run has neither faulted nor been refused, and pc
is in `w` (46 R228). -/
def PollsWithin (s : State) (w : Window) : Prop :=
  ∀ k, ∃ t, Sys2Proof.core.run k s = .next t ∧ w.contains t.pc = true

/-- Idle polling (46 R228), the claim to prove of a ROM image and its windows, never a property of the core: wherever a
run from the machine just supplied with them reaches a poll for key press with no key pressed, the steps that follow
keep pc in the window that decided it (log entry 36). -/
def IdlePolling (c : Config) (image : List RomWord) : Prop :=
  ∀ s₀, boot c image = .next s₀ → ∀ ts s w, runTransitions ts s₀ = .next s → PollsForKeyPress s w → PollsWithin s w

/-! ### Frames -/

/-- Everything but A, B, C, D, COND and R5 is as before: what a mask op keeps (10 R32, 45 R190). -/
structure KeepsAllButRegsCondR5 (s t : State) : Prop where
  x : t.x = s.x
  y : t.y = s.y
  rab : t.rab = s.rab
  pc : t.pc = s.pc
  stack : t.s0 = s.s0 ∧ t.s1 = s.s1 ∧ t.s2 = s.s2
  isHex : t.isHex = s.isHex
  key : t.keyRow = s.keyRow ∧ t.keyCol = s.keyCol ∧ t.keyPressed = s.keyPressed
  display : t.dA = s.dA ∧ t.dB = s.dB ∧ t.displayValid = s.displayValid
  rom : ∀ p, t.rom.read p = s.rom.read p
  parameters : t.cfg = s.cfg ∧ t.draws = s.draws

/-- `dest` holds `t` on [lo, hi] and its old digits elsewhere, and no other operational register changes; with a null
destination none does (40 R104, R111). -/
def WritesRange (dest : Option RegName) (rg : DigitRange) (t : Reg) (s s' : State) : Prop :=
  (∀ r, dest ≠ some r → s'.reg r = s.reg r) ∧
    ∀ r, dest = some r → ∀ i < 16,
      (s'.reg r).digit i = if rg.lo.val ≤ i ∧ i ≤ rg.hi.val then t.digit i else (s.reg r).digit i

/-- R5 holds digit lo of `r` in its low nibble and digit lo + 1 in its high nibble if hi > lo, else 0 there (40
R109). -/
def R5From (r : Reg) (rg : DigitRange) (s' : State) : Prop :=
  s'.r5.toNat = (r.digit rg.lo.val).toNat + 16 * (if rg.lo < rg.hi then (r.digit (rg.lo.val + 1)).toNat else 0)

/-! ### The digit rules of the primitives, on numbers -/

/-- The digit rule of Add: `carry i` goes into digit i (40 R101). -/
def AddRule (base : Nat) (left right t : Reg) (rg : DigitRange) (carry : Nat → Nat) : Prop :=
  carry rg.lo.val = 0 ∧ ∀ i, rg.lo.val ≤ i → i ≤ rg.hi.val →
    let s := (left.digit i).toNat + (right.digit i).toNat + carry i
    if base ≤ s then (t.digit i).toNat = (s - base) % 16 ∧ carry (i + 1) = 1
    else (t.digit i).toNat = s ∧ carry (i + 1) = 0

/-- The digit rule of Subtract: `borrow i` comes out of digit i (40 R102). -/
def SubRule (base : Nat) (left right t : Reg) (rg : DigitRange) (borrow : Nat → Nat) : Prop :=
  borrow rg.lo.val = 0 ∧ ∀ i, rg.lo.val ≤ i → i ≤ rg.hi.val →
    let s : Int := (left.digit i).toNat - (right.digit i).toNat - borrow i
    if s < 0 then ((t.digit i).toNat : Int) = (s + base) % 16 ∧ borrow (i + 1) = 1
    else ((t.digit i).toNat : Int) = s ∧ borrow (i + 1) = 0

/-- The whole effect of `Add(dest, left, right, lo, hi)` (40 R101, R103, R104, R109). -/
def AddEffect (dest : Option RegName) (left right : Reg) (rg : DigitRange) (s s' : State) : Prop :=
  ∃ t carry, AddRule (if 13 ≤ rg.lo.val ∨ s.isHex = true then 16 else 10) left right t rg carry ∧
    WritesRange dest rg t s s' ∧ (s'.cond = true ↔ s.cond = true ∨ carry (rg.hi.val + 1) = 1) ∧
    R5From t rg s' ∧ KeepsAllButRegsCondR5 s s'

/-- The whole effect of `Subtract(dest, left, right, lo, hi)` (40 R102, R103, R104, R109). -/
def SubEffect (dest : Option RegName) (left right : Reg) (rg : DigitRange) (s s' : State) : Prop :=
  ∃ t borrow, SubRule (if 13 ≤ rg.lo.val ∨ s.isHex = true then 16 else 10) left right t rg borrow ∧
    WritesRange dest rg t s s' ∧ (s'.cond = true ↔ s.cond = true ∨ borrow (rg.hi.val + 1) = 1) ∧
    R5From t rg s' ∧ KeepsAllButRegsCondR5 s s'

/-- The whole effect of `ShiftLeft(dest, src, lo, hi)` (40 R105). -/
def ShiftLeftEffect (dest : Option RegName) (src : Reg) (rg : DigitRange) (s s' : State) : Prop :=
  ∃ t : Reg, t.digit rg.lo.val = 0 ∧ (∀ i, rg.lo.val < i → i ≤ rg.hi.val → t.digit i = src.digit (i - 1)) ∧
    WritesRange dest rg t s s' ∧ s'.cond = s.cond ∧ R5From t rg s' ∧ KeepsAllButRegsCondR5 s s'

/-- The whole effect of `ShiftRight(dest, src, lo, hi)` (40 R106). -/
def ShiftRightEffect (dest : Option RegName) (src : Reg) (rg : DigitRange) (s s' : State) : Prop :=
  ∃ t : Reg, t.digit rg.hi.val = 0 ∧ (∀ i, rg.lo.val ≤ i → i < rg.hi.val → t.digit i = src.digit (i + 1)) ∧
    WritesRange dest rg t s s' ∧ s'.cond = s.cond ∧ R5From t rg s' ∧ KeepsAllButRegsCondR5 s s'

/-- The whole effect of `Exchange(left, right, lo, hi)` (40 R107). -/
def ExchangeEffect (left right : RegName) (rg : DigitRange) (s s' : State) : Prop :=
  (∀ i < 16, (s'.reg left).digit i =
      if rg.lo.val ≤ i ∧ i ≤ rg.hi.val then (s.reg right).digit i else (s.reg left).digit i) ∧
    (∀ i < 16, (s'.reg right).digit i =
      if rg.lo.val ≤ i ∧ i ≤ rg.hi.val then (s.reg left).digit i else (s.reg right).digit i) ∧
    (∀ r, r ≠ left → r ≠ right → s'.reg r = s.reg r) ∧
    s'.cond = s.cond ∧ R5From (s.reg left) rg s' ∧ KeepsAllButRegsCondR5 s s'

/-- The whole effect of `Store(dest, src, lo, hi)` (40 R108). -/
def StoreEffect (dest : RegName) (src : Reg) (rg : DigitRange) (s s' : State) : Prop :=
  WritesRange (some dest) rg src s s' ∧ s'.cond = s.cond ∧ R5From src rg s' ∧ KeepsAllButRegsCondR5 s s'

/-! ### Numbers in a digit range -/

/-- `V(r)` on the `n` digits from `lo` on, in base `B` (40 R114): the sum of r[lo + i] * B^i. -/
def rangeValue (B : Nat) (r : Reg) (lo : Nat) : Nat → Nat
  | 0 => 0
  | n + 1 => rangeValue B r lo n + (r.digit (lo + n)).toNat * B ^ n

/-- Every digit of `r` on [lo, hi] is below `B` (40 R114). -/
def ValidDigits (B : Nat) (r : Reg) (rg : DigitRange) : Prop :=
  ∀ i < 16, rg.lo.val ≤ i → i ≤ rg.hi.val → (r.digit i).toNat < B

/-- The number of digits in the range. -/
def rangeLength (rg : DigitRange) : Nat := rg.hi.val + 1 - rg.lo.val

/-! ### Instruction classes the claims quantify over -/

/-- The mask instructions with a primitive to run (45 R193 to R204), with their M. -/
def maskOpOf : Instr → Option (BitVec 4)
  | .addj m _ _ => some m
  | .addk m _ _ => some m
  | .addn m _ _ => some m
  | .subj m _ _ => some m
  | .subk m _ _ => some m
  | .subn m _ _ => some m
  | .exch m _ _ => some m
  | .stor m _ _ => some m
  | .shl m _ => some m
  | .shr m _ => some m
  | .shln m _ => some m
  | .shrn m _ => some m
  | .nopOor _ => none
  | .br0 _ => none
  | .br1 _ => none
  | .call _ => none
  | .ytoa _ => none
  | .rabi _ _ => none
  | .jmpR5 _ => none
  | .ret _ => none
  | .atox _ => none
  | .xtoa _ => none
  | .atoy _ => none
  | .disp _ => none
  | .dec _ => none
  | .hex _ => none
  | .rabR5 _ => none
  | .miscRsv _ _ => none
  | .setf _ _ _ => none
  | .clrf _ _ _ => none
  | .tstf _ _ _ => none
  | .tglf _ _ _ => none
  | .nopM _ _ => none
  | .maskRsv _ _ _ _ _ => none

end Sys2Proof.Machine
end

