-- ==== Sys2Proof/Certificates/Slice0/Obligations.lean ====
section
/-! DEFINITION. The statements for the provers, each from the spec's rules. The terms they use are in
Sys2Proof/Safety.lean. `exec` runs after the increment of 41 R131: in a statement about `exec i s`, `s.pc` is the
address of the instruction's word plus one. -/

open Sys2Proof Sys2Proof.Machine

/-! ### Encoding and decoding (30) -/

/-- Decoding the word of a well-formed instruction gives the instruction back, under every configuration and with every
operand at every value its field admits (30 R81 to R90). The field positions and code points are the spec's own
decisions (log entry 5). -/
def Obligations.DecodeOfEncodeIsIdentity : Prop :=
  ∀ (c : Config) (i : Instr), i.wellFormed c = true → decode c (encode c i) = i

/-- Every 16-bit word decodes to a well-formed instruction, and, if no two codes of MISC_MAP select one operation,
the encoding of that instruction is the word (30 R80 to R90). The field positions and code points are the spec's own
decisions (log entry 5). That no bit of a word is dropped, the ignored ones among them, is the model's choice of
constructors (log entry 30), and so is that the encoder takes the lowest code of MISC_MAP (log entry 31). -/
def Obligations.EveryWordIsItsInstructionsEncoding : Prop :=
  ∀ (c : Config) (w : RomWord), (decode c w).wellFormed c = true ∧
    ((c.miscMap.toList.filter Option.isSome).Nodup → encode c (decode c w) = w)

/-- Words written out bit by bit decode to the instructions they stand for under the default configuration: by the
formats of 30 R83 to R87, the codes of 43 R160, and 30 R92 for a word out of range. The field positions and the misc
codes are the spec's own decisions (log entries 5 and 7), and so is the default MASK_RANGE that the mask words,
NOP-M, STOR and SHR, rest on (log entry 6). -/
def Obligations.WordsFromTheEncodingTablesDecode : Prop :=
  decode defaultConfig 0b0001100000010000 = .br0 0x010 ∧
  decode defaultConfig 0b0001110100100011 = .br1 0x123 ∧
  decode defaultConfig 0b0001010001010110 = .call 0x456 ∧
  decode defaultConfig 0b0000111001010001 = .rabi 0 5 ∧
  decode defaultConfig 0b0000111000000111 = .disp 0 ∧
  decode defaultConfig 0b0000110001011101 = .clrf .B 1 3 ∧
  decode defaultConfig 0b0000001000101111 = .stor 2 .A .r5 ∧
  decode defaultConfig 0b0000010000110001 = .shr 4 .A ∧
  decode defaultConfig 0b0000110100000000 = .nopM 0xD 0 ∧
  decode defaultConfig 0b0010000000000000 = .nopOor 0x2000

/-- The mask words with a valid M that decode to MASK-RSV are exactly the combinations of 45 R205: K = 7 with any L, N;
K = 6 with L = 1 or 3; K = 4 or 5 with L = 1; K = 4 or 5 with L = 3 and N = 0. The code points and the reserved cells
are the spec's own decisions (log entries 5 and 8). -/
def Obligations.ReservedMaskWordsAreExactlyTheSpecs : Prop :=
  ∀ (c : Config) (w : RomWord), w.toNat < 0x1000 → c.hasRange (w.extractLsb' 8 4) = true →
    let k := (w.toNat / 8) % 8
    let l := (w.toNat / 2) % 4
    let n := w.toNat % 2
    ((∃ m j k l n, decode c w = .maskRsv m j k l n) ↔
      k = 7 ∨ (k = 6 ∧ (l = 1 ∨ l = 3)) ∨ ((k = 4 ∨ k = 5) ∧ (l = 1 ∨ (l = 3 ∧ n = 0))))

/-! ### The step (41) -/

/-- Fetch, increment pc first, decode, execute (41 R131): the step at a state is `exec` of the decoded word on the
state whose pc is incremented modulo 2048 (41 R132); and a well-formed instruction whose word stands at pc is what
runs. That the increment wraps is the spec's own decision (log entry 20). -/
def Obligations.StepRunsTheDecodedInstruction : Prop :=
  (∀ (s : State) (w : RomWord), fetch s = some w → step s = exec (decode s.cfg w) { s with pc := s.pc + 1 }) ∧
  (∀ (s : State) (i : Instr), i.wellFormed s.cfg = true → fetch s = some (encode s.cfg i) →
    step s = exec i { s with pc := s.pc + 1 })

/-- The model's choice (log entry 2; the spec gives no ROM image, 91 N16): a fetch at an address for which no word has
been supplied faults, naming the address. -/
def Obligations.FetchOfAnAbsentWordFaults : Prop :=
  ∀ s : State, fetch s = none → step s = .fault (.romAbsent s.pc)

/-- `next` is always enabled except on a refused word (41 R137, R139). With a word at pc that 30 R93 marks refused:
when reserved_as_nop is false the step has no successor and the refusal names the address and the word; when it is
true the word is a no-op and only pc advances. With any other word the step has a successor. Refusing these words,
and that the increment wraps at 2047, are the spec's own decisions (log entries 8, 20 and 26). -/
def Obligations.StepRunsExceptOnRefusedWords : Prop :=
  ∀ (s : State) (w : RomWord), fetch s = some w →
    (refusedWord s.cfg w = true → s.cfg.reservedAsNop = false →
      step s = .refused (.reservedMisc s.pc w) ∨ step s = .refused (.reservedMask s.pc w)) ∧
    (refusedWord s.cfg w = true → s.cfg.reservedAsNop = true → step s = .next { s with pc := s.pc + 1 }) ∧
    (refusedWord s.cfg w = false → ∃ t, step s = .next t)

/-- A word above 0x1FFF changes nothing beyond the increment of pc, and its cost is that of the whole word (41 R133,
30 R92). That the increment wraps at 2047 and that the cost literal is applied to words that are not DISP are the
spec's own decisions (log entries 20 and 23). -/
def Obligations.OutOfRangeWordOnlyAdvancesPc : Prop :=
  ∀ (s : State) (w : RomWord), fetch s = some w → 0x1FFF < w.toNat →
    step s = .next { s with pc := s.pc + 1 } ∧ stepCost s = some (if w &&& 0x0E07 = 0x0E07 then 32 else 1)

/-- A mask word whose M has an INVALID range is a no-op whatever its other fields hold (45 R190, R206); under the
default MASK_RANGE these are the words 0x0D00..0x0DFF and 0x0F00..0x0FFF, of which 0x0Fx7 and 0x0FxF cost 32. Which
M are INVALID by default, that the increment wraps at 2047 and that the cost literal is applied to words that are
not DISP are the spec's own decisions (log entries 6, 20 and 23). -/
def Obligations.InvalidRangeWordOnlyAdvancesPc : Prop :=
  (∀ (s : State) (w : RomWord), fetch s = some w → w.toNat < 0x1000 →
    isMaskClass (w.extractLsb' 8 4) = true → s.cfg.range (w.extractLsb' 8 4) = none →
    step s = .next { s with pc := s.pc + 1 }) ∧
  (∀ w : RomWord, w.toNat < 0x1000 → isMaskClass (w.extractLsb' 8 4) = true →
    (defaultConfig.range (w.extractLsb' 8 4) = none ↔ w.toNat / 256 = 0x0D ∨ w.toNat / 256 = 0x0F)) ∧
  ∀ w : RomWord, w.toNat / 256 = 0x0F → w.toNat % 8 = 7 → cost w = 32

/-- The only target computations of the ISA (42 R153): a step of any instruction but BR0, BR1, CALL, JMPR5 and RET
leaves pc at the next address modulo 2048 (41 R132). That the increment wraps is the spec's own decision (log entry
20). -/
def Obligations.PcOnlyIncrementsOutsideControlTransfers : Prop :=
  ∀ (s t : State) (w : RomWord), fetch s = some w → step s = .next t →
    (∀ a, decode s.cfg w ≠ .br0 a) → (∀ a, decode s.cfg w ≠ .br1 a) → (∀ a, decode s.cfg w ≠ .call a) →
    (∀ aux, decode s.cfg w ≠ .jmpR5 aux) → (∀ aux, decode s.cfg w ≠ .ret aux) →
    t.pc.toNat = (s.pc.toNat + 1) % 2048

/-- The cost of a step is 32 when the whole word matches the literal pattern and 1 otherwise (41 R135): for a word read
as a number, when op[11:9] and op[2:0] are all ones, whatever its class. That the literal is applied to every word is
the spec's own decision (log entry 23). -/
def Obligations.CostFollowsTheLiteralPattern : Prop :=
  ∀ (s : State) (w : RomWord), fetch s = some w →
    stepCost s = some (if w.toNat / 512 % 8 = 7 ∧ w.toNat % 8 = 7 then 32 else 1)

/-- The core raises no exception, trap or fault of any kind (60 R250): from a machine whose ROM and configuration have
been supplied, no sequence of transitions, host actions and resets among them, ever faults. The one fault of the model,
of an absent ROM word, is its own choice (log entry 2). -/
def Obligations.NoRunFromBootEverFaults : Prop :=
  ∀ (c : Config) (image : List RomWord) (s : State), boot c image = .next s →
    ∀ (ts : List Transition) (f : Fault), runTransitions ts s ≠ .fault f

/-! ### Invariants -/

/-- The invariant holds right after reset (70 R270). The reset values of the display latches are the spec's own reading
(log entry 21). -/
def Obligations.InvariantHoldsAtReset : Prop := State.reset.Inv

/-- Every step keeps the invariant: the ROM list stays canonical, the parameters stay admitted, and the display latches
stay as reset left them until a DISP has run (10 R42, 20 R69). The reset values of the display latches are the spec's
own reading (log entry 21). -/
def Obligations.StepKeepsTheInvariant : Prop :=
  ∀ s t : State, s.Inv → step s = .next t → t.Inv

/-- Every run of core steps and host actions keeps the invariant, and leaves the ROM and the parameters as they were
(00 R17, 20 R69, 70 R270). Carrying the ROM and the parameters in the state is the model's choice (log entry 1). -/
def Obligations.RunsKeepTheInvariantAndTheRom : Prop :=
  ∀ (ts : List Transition) (s t : State), runTransitions ts s = .next t →
    (s.Inv → t.Inv) ∧ t.cfg = s.cfg ∧ ∀ p, t.rom.read p = s.rom.read p

/-- Supplying an admitted configuration and an image of 2048 words succeeds, and whenever supplying succeeds it
gives the reset state with every word of the image at its address, so that the ROM is total, and the invariant holds
(00 R15, R17, 70 R273). `boot` is the model's form of supplying them (log entry 3). -/
def Obligations.BootSuppliesTheWholeRom : Prop :=
  ∀ (c : Config) (image : List RomWord),
    (c.Wf → image.length = 2048 → ∃ s, boot c image = .next s) ∧
    ∀ s : State, boot c image = .next s →
      s.Inv ∧ RomTotal s ∧ (∀ p : Addr, s.rom.read p = image[p.toNat]?) ∧
        s = { State.reset with rom := s.rom, cfg := c }

/-- A list of windows with one that contains address 0 is refused (46 R226). Refusing it when the configuration is
supplied is the model's form of it (log entry 12). -/
def Obligations.BootRefusesAWindowOverAddressZero : Prop :=
  ∀ (c : Config) (image : List RomWord) (w : Window), w ∈ c.windows → w.contains 0 = true →
    boot c image = .refused .badConfig

/-! ### What each part of the state can be changed by (10 R30) -/

/-- COND is cleared by every branch and call and by return, and by nothing else (10 R36, 70 R276). That COND is set
only elsewhere is the spec's own decision (log entries 15 and 19). -/
def Obligations.CondClearedExactlyByBranchCallReturn : Prop :=
  ∀ (i : Instr) (s t : State), exec i s = .next t →
    ((∃ a, i = .br0 a) ∨ (∃ a, i = .br1 a) ∨ (∃ a, i = .call a) ∨ (∃ aux, i = .ret aux) → t.cond = false) ∧
    (s.cond = true → t.cond = false →
      (∃ a, i = .br0 a) ∨ (∃ a, i = .br1 a) ∨ (∃ a, i = .call a) ∨ (∃ aux, i = .ret aux))

/-- COND is raised only by the add and subtract ops, TSTF, and DISP with a key pressed (10 R36, 70 R276). That COND is
set only is the spec's own decision (log entries 15 and 19). -/
def Obligations.CondRaisedOnlyByArithmeticTestAndDisp : Prop :=
  ∀ (i : Instr) (s t : State), exec i s = .next t → s.cond = false → t.cond = true →
    (∃ m j k, i = .addj m j k ∨ i = .addn m j k ∨ i = .subj m j k ∨ i = .subn m j k) ∨
    (∃ m j k, i = .addk m j k ∨ i = .subk m j k) ∨ (∃ r d b, i = .tstf r d b) ∨
    ((∃ aux, i = .disp aux) ∧ s.keyPressed = true)

/-- R5 is written only by a mask op with a range and by DISP with a key pressed (10 R35, 43 R160, 44 R180). That flag
ops and the other misc ops do not write R5 is the spec's own decision (log entry 19). -/
def Obligations.R5WrittenOnlyByMaskOpsAndDisp : Prop :=
  ∀ (i : Instr) (s t : State), exec i s = .next t → t.r5 ≠ s.r5 →
    (∃ m, maskOpOf i = some m ∧ (s.cfg.range m).isSome = true) ∨
    ((∃ aux, i = .disp aux) ∧ s.keyPressed = true)

/-- The storage registers are written only by ATOX and ATOY, and then only the one RAB selects (10 R32). -/
def Obligations.StorageWrittenOnlyThroughRab : Prop :=
  ∀ (i : Instr) (s t : State), exec i s = .next t → ∀ n : Fin 8,
    (t.x.get n ≠ s.x.get n → (∃ aux, i = .atox aux) ∧ n.val = s.rab.toNat) ∧
    (t.y.get n ≠ s.y.get n → (∃ aux, i = .atoy aux) ∧ n.val = s.rab.toNat)

/-- The writers of the remaining state (10 R30): the return stack is written only by CALL and RET, RAB only by RABI and
RABR5, is_hex only by DEC and HEX, the display latches only by DISP. -/
def Obligations.SpecialRegistersWrittenOnlyByTheirWriters : Prop :=
  ∀ (i : Instr) (s t : State), exec i s = .next t →
    ((t.s0, t.s1, t.s2) ≠ (s.s0, s.s1, s.s2) → (∃ a, i = .call a) ∨ (∃ aux, i = .ret aux)) ∧
    (t.rab ≠ s.rab → (∃ h n, i = .rabi h n) ∨ (∃ aux, i = .rabR5 aux)) ∧
    (t.isHex ≠ s.isHex → (∃ aux, i = .dec aux) ∨ (∃ aux, i = .hex aux)) ∧
    ((t.dA, t.dB, t.displayValid) ≠ (s.dA, s.dB, s.displayValid) → ∃ aux, i = .disp aux)

/-- No instruction writes the key latch or the ROM, or changes a parameter: the key latch is written only by the host
(10 R41), nothing writes the ROM (20 R69). -/
def Obligations.NoInstructionWritesKeyLatchOrRom : Prop :=
  ∀ (i : Instr) (s t : State), exec i s = .next t →
    t.keyRow = s.keyRow ∧ t.keyCol = s.keyCol ∧ t.keyPressed = s.keyPressed ∧
    (∀ p, t.rom.read p = s.rom.read p) ∧ t.cfg = s.cfg

/-- No mask op writes any digit outside [lo, hi] of any register (40 R111): every such digit of A, B, C and D keeps its
value, and the storage registers and the display latches keep every digit. -/
def Obligations.NoDigitOutsideTheRangeChanges : Prop :=
  ∀ (i : Instr) (s t : State) (m : BitVec 4) (rg : DigitRange), maskOpOf i = some m → s.cfg.range m = some rg →
    exec i s = .next t →
    (∀ (r : RegName) (n : Nat), n < rg.lo.val ∨ rg.hi.val < n → (t.reg r).digit n = (s.reg r).digit n) ∧
    t.x = s.x ∧ t.y = s.y ∧ t.dA = s.dA ∧ t.dB = s.dB

/-- DISP is the only place the key latch is read (47 R240): for every other instruction, running it commutes with any
change of the key latch; and for DISP, with no key pressed the latched row and column do not matter. -/
def Obligations.KeyLatchIsReadOnlyByDisp : Prop :=
  ∀ (i : Instr) (s : State) (row : Fin 8) (col : Fin 5) (p : Bool),
    (∀ aux, i ≠ .disp aux) ∨ (s.keyPressed = false ∧ p = false) →
    (∀ t, exec i s = .next t → exec i (s.setKey row col p) = .next (t.setKey row col p)) ∧
    (∀ r, exec i s = .refused r → exec i (s.setKey row col p) = .refused r)

/-- The display latches are outputs only (10 R30, R42): two states that differ in them alone run every instruction to
states that differ in them alone, and DISP makes them equal. -/
def Obligations.DisplayLatchesAffectNothing : Prop :=
  ∀ (i : Instr) (s t : State) (vA vB : Reg) (valid : Bool), exec i s = .next t →
    exec i { s with dA := vA, dB := vB, displayValid := valid } =
      .next (match i with
        | .disp _ => t
        | _ => { t with dA := vA, dB := vB, displayValid := valid })

/-! ### Branch, call, return, jump -/

/-- BR0 and BR1 (42 R150, R151): the words 0x1800 + a and 0x1C00 + a. With pc already incremented, the branch is
taken when COND equals op[10], to the page of pc with a as the low ten bits; COND is cleared, taken or not; nothing
else changes. A BR0 costs 1, and a BR1 costs 32 when bit 9 and bits 2..0 of its word are 1 and else 1: that the cost
literal is applied to branch words is the spec's own decision (log entry 23). -/
def Obligations.BranchesCompleteInTheirPage : Prop :=
  ∀ (s : State) (a : BitVec 10),
    decode s.cfg (BitVec.ofNat 16 (0x1800 + a.toNat)) = .br0 a ∧
    decode s.cfg (BitVec.ofNat 16 (0x1C00 + a.toNat)) = .br1 a ∧
    exec (.br0 a) s = .next { s with
      pc := if s.cond = false then BitVec.ofNat 11 (s.pc.toNat / 1024 * 1024 + a.toNat) else s.pc
      cond := false } ∧
    exec (.br1 a) s = .next { s with
      pc := if s.cond = true then BitVec.ofNat 11 (s.pc.toNat / 1024 * 1024 + a.toNat) else s.pc
      cond := false } ∧
    cost (BitVec.ofNat 16 (0x1800 + a.toNat)) = 1 ∧
    cost (BitVec.ofNat 16 (0x1C00 + a.toNat)) = if 512 ≤ a.toNat ∧ a.toNat % 8 = 7 then 32 else 1

/-- CALL (42 R152, 10 R39): the word 0x1000 + a. The incremented pc is pushed and the old S[2] is lost, pc takes the
target, COND is cleared; nothing else changes. -/
def Obligations.CallCompletes : Prop :=
  ∀ (s : State) (a : BitVec 11),
    decode s.cfg (BitVec.ofNat 16 (0x1000 + a.toNat)) = .call a ∧
    exec (.call a) s = .next { s with s0 := s.pc, s1 := s.s0, s2 := s.s1, pc := a, cond := false }

/-- RET (43 R164, 10 R40): misc code 3. pc takes S[0], the stack shifts up, COND is cleared; the bottom slot keeps S[2]
under KEEP and is some value under DRAW; nothing else changes but, under DRAW, the model's draw counter (log entries 10
and 11). The misc code is the spec's own decision (log entry 7). -/
def Obligations.ReturnCompletes : Prop :=
  ∀ (s : State) (aux : BitVec 4),
    (s.cfg.miscMap = defaultMiscMap → decode s.cfg (BitVec.ofNat 16 (0x0E03 + aux.toNat * 16)) = .ret aux) ∧
    (s.cfg.popFill = .keep →
      exec (.ret aux) s = .next { s with pc := s.s0, s0 := s.s1, s1 := s.s2, cond := false }) ∧
    (s.cfg.popFill = .draw → ∃ v : Addr,
      exec (.ret aux) s =
        .next { s with pc := s.s0, s0 := s.s1, s1 := s.s2, s2 := v, cond := false, draws := s.draws + 1 })

/-- JMPR5 (43 R163): misc code 2. pc takes R5 zero-extended, so the target is 0..255; COND, the stack and everything
else are unchanged. The misc code and that COND is kept are the spec's own decisions (log entries 7 and 19). -/
def Obligations.IndirectJumpCompletes : Prop :=
  ∀ (s : State) (aux : BitVec 4),
    (s.cfg.miscMap = defaultMiscMap → decode s.cfg (BitVec.ofNat 16 (0x0E02 + aux.toNat * 16)) = .jmpR5 aux) ∧
    ∃ t, exec (.jmpR5 aux) s = .next t ∧
      t.pc.toNat = s.r5.toNat ∧ t.pc.toNat ≤ 255 ∧ t = { s with pc := t.pc }

/-- Calls nest three deep. After four CALLs, run with pc at p1, p2, p3 and p4, the return stack holds p4, p3 and p2
and the oldest return address p1 is lost; three RETs then go to p4, p3 and p2 in last-in first-out order, and the
fourth, under KEEP, to the stale p2 (10 R39, R40, 70 R279). What KEEP leaves in the bottom slot is the spec's own
decision (log entry 10). -/
def Obligations.ReturnStackIsThreeDeep : Prop :=
  ∀ (s : State) (a1 a2 a3 a4 p1 p2 p3 p4 q1 q2 q3 q4 : Addr) (x1 x2 x3 x4 : BitVec 4),
    ∃ t1 t2 t3 t4 u1 u2 u3 u4 : State,
      exec (.call a1) { s with pc := p1 } = .next t1 ∧ exec (.call a2) { t1 with pc := p2 } = .next t2 ∧
      exec (.call a3) { t2 with pc := p3 } = .next t3 ∧ exec (.call a4) { t3 with pc := p4 } = .next t4 ∧
      (t4.s0, t4.s1, t4.s2) = (p4, p3, p2) ∧
      exec (.ret x1) { t4 with pc := q1 } = .next u1 ∧ u1.pc = p4 ∧
      exec (.ret x2) { u1 with pc := q2 } = .next u2 ∧ u2.pc = p3 ∧
      exec (.ret x3) { u2 with pc := q3 } = .next u3 ∧ u3.pc = p2 ∧
      exec (.ret x4) { u3 with pc := q4 } = .next u4 ∧ (s.cfg.popFill = .keep → u4.pc = p2)

/-- A BR1 followed by a BR0 with the same field is an unconditional jump in the page, and leaves COND = 0 (30 R95): if
the BR1 is taken it is at the target; if not, the BR0 at the next address is taken. The pseudo-instruction is the
spec's own (log entry 33). -/
def Obligations.BranchPairJumpsUnconditionally : Prop :=
  ∀ (s : State) (a : BitVec 10), ∃ t, exec (.br1 a) s = .next t ∧ t.cond = false ∧
    (s.cond = true → t.pc = branchTarget s.pc a) ∧
    (s.cond = false → t.pc = s.pc ∧ ∃ u, exec (.br0 a) { t with pc := t.pc + 1 } = .next u ∧ u.cond = false ∧
      u.pc = branchTarget (s.pc + 1) a)

/-! ### Misc operations (43) -/

/-- The four storage copies, misc codes 0, 5, 4 and 6, move all 16 digits between A and the register RAB selects, and
change nothing else (43 R161, R165, R166, R167). The misc codes and that all 16 digits move are the spec's own
decisions (log entries 7 and 19). -/
def Obligations.StorageCopiesComplete : Prop :=
  ∀ (s : State) (aux : BitVec 4),
    (s.cfg.miscMap = defaultMiscMap →
      decode s.cfg (BitVec.ofNat 16 (0x0E00 + aux.toNat * 16)) = .ytoa aux ∧
      decode s.cfg (BitVec.ofNat 16 (0x0E05 + aux.toNat * 16)) = .xtoa aux ∧
      decode s.cfg (BitVec.ofNat 16 (0x0E04 + aux.toNat * 16)) = .atox aux ∧
      decode s.cfg (BitVec.ofNat 16 (0x0E06 + aux.toNat * 16)) = .atoy aux) ∧
    exec (.ytoa aux) s = .next { s with a := s.y.get s.rab.toFin } ∧
    exec (.xtoa aux) s = .next { s with a := s.x.get s.rab.toFin } ∧
    (∃ t, exec (.atox aux) s = .next { s with x := t } ∧ t.get s.rab.toFin = s.a ∧
      ∀ n : Fin 8, n ≠ s.rab.toFin → t.get n = s.x.get n) ∧
    (∃ t, exec (.atoy aux) s = .next { s with y := t } ∧ t.get s.rab.toFin = s.a ∧
      ∀ n : Fin 8, n ≠ s.rab.toFin → t.get n = s.y.get n)

/-- RABI, misc code 1 with op[7] ignored, loads op[6:4] into RAB, and RABR5, misc code 0xA, the low three bits of R5;
nothing else changes (43 R162, R171). The misc codes, and RABI as a whole, are the spec's own (log entry
7). -/
def Obligations.RabLoadsComplete : Prop :=
  ∀ (s : State) (op7 : BitVec 1) (n : BitVec 3) (aux : BitVec 4),
    (s.cfg.miscMap = defaultMiscMap →
      decode s.cfg (BitVec.ofNat 16 (0x0E01 + op7.toNat * 128 + n.toNat * 16)) = .rabi op7 n ∧
      decode s.cfg (BitVec.ofNat 16 (0x0E0A + aux.toNat * 16)) = .rabR5 aux) ∧
    exec (.rabi op7 n) s = .next { s with rab := n } ∧
    exec (.rabR5 aux) s = .next { s with rab := BitVec.ofNat 3 (s.r5.toNat % 8) }

/-- DEC, misc code 8, clears is_hex and HEX, misc code 9, sets it; nothing else changes (43 R169, R170). The base of
every add and subtract is then 16 with HEX, and with DEC 10 unless the range starts at 13 or above (40 R100). The misc
codes are the spec's own decisions (log entry 7). -/
def Obligations.BaseSelectsComplete : Prop :=
  ∀ (s : State) (aux : BitVec 4),
    (s.cfg.miscMap = defaultMiscMap →
      decode s.cfg (BitVec.ofNat 16 (0x0E08 + aux.toNat * 16)) = .dec aux ∧
      decode s.cfg (BitVec.ofNat 16 (0x0E09 + aux.toNat * 16)) = .hex aux) ∧
    exec (.dec aux) s = .next { s with isHex := false } ∧ exec (.hex aux) s = .next { s with isHex := true } ∧
    ∀ rg, State.base { s with isHex := true } rg = 16 ∧
      State.base { s with isHex := false } rg = if 13 ≤ rg.lo.val then 16 else 10

/-- DISP, misc code 7, costs 32 cycles; it latches A and B, marks the display valid, and with a key pressed loads
its code into R5 and sets COND; it never clears key_pressed and changes nothing else (43 R168). The misc code,
KEY_CODE, that aux is ignored, the 16 digits latched and display_valid are the spec's own decisions (log entries 7,
9, 19 and 22). -/
def Obligations.DisplayLatchAndKeyScanComplete : Prop :=
  ∀ (s : State) (aux : BitVec 4),
    (s.cfg.miscMap = defaultMiscMap → decode s.cfg (BitVec.ofNat 16 (0x0E07 + aux.toNat * 16)) = .disp aux) ∧
    cost (BitVec.ofNat 16 (0x0E07 + aux.toNat * 16)) = 32 ∧
    (s.keyPressed = false → exec (.disp aux) s = .next { s with dA := s.a, dB := s.b, displayValid := true }) ∧
    (s.keyPressed = true → exec (.disp aux) s = .next { s with
      dA := s.a, dB := s.b, displayValid := true, cond := true
      r5 := (s.cfg.keyCode.get s.keyRow).get s.keyCol })

/-- A misc word whose code MISC_MAP gives no operation, by default the codes 0xB to 0xF, is refused, with the address
and the word, or does nothing when reserved_as_nop is true (43 R172, 41 R137). The refusal and the default codes are
the spec's own decisions (log entries 7 and 8). -/
def Obligations.ReservedMiscWordsRefuseOrDoNothing : Prop :=
  ∀ (s : State) (aux code : BitVec 4),
    (s.cfg.misc code = none →
      decode s.cfg (BitVec.ofNat 16 (0x0E00 + aux.toNat * 16 + code.toNat)) = .miscRsv aux code) ∧
    (defaultConfig.misc code = none ↔ 0xB ≤ code.toNat) ∧
    (s.cfg.reservedAsNop = true → exec (.miscRsv aux code) s = .next s) ∧
    (s.cfg.reservedAsNop = false → exec (.miscRsv aux code) s =
      .refused (.reservedMisc (s.pc - 1) (BitVec.ofNat 16 (0x0E00 + aux.toNat * 16 + code.toNat))))

/-! ### Flag operations (44) -/

/-- SETF, CLRF and TGLF, the words 0x0C00 + 64r + 16d + 4b + f with f = 0, 1, 3, make one bit of digit 12 + d of their
register 1, 0 or inverted; every other bit of every digit of every register, and everything else, COND and R5 among it,
is unchanged (44 R181, R182, R184). The field positions, and that R5 and COND are kept, are the spec's own decisions
(log entries 5 and 19). -/
def Obligations.FlagWritesCompleteOnOneBit : Prop :=
  ∀ (s : State) (r : RegName) (d b : BitVec 2),
    let word := fun f => BitVec.ofNat 16 (0x0C00 + (regIndex r).toNat * 64 + d.toNat * 16 + b.toNat * 4 + f)
    decode s.cfg (word 0) = .setf r d b ∧ decode s.cfg (word 1) = .clrf r d b ∧ decode s.cfg (word 3) = .tglf r d b ∧
    ∃ t1 t2 t3,
      exec (.setf r d b) s = .next t1 ∧ exec (.clrf r d b) s = .next t2 ∧ exec (.tglf r d b) s = .next t3 ∧
      (∀ q n k, n < 16 → k < 4 →
        let old := ((s.reg q).digit n).getLsbD k
        let hit := q = r ∧ n = 12 + d.toNat ∧ k = b.toNat
        ((t1.reg q).digit n).getLsbD k = (if hit then true else old) ∧
        ((t2.reg q).digit n).getLsbD k = (if hit then false else old) ∧
        ((t3.reg q).digit n).getLsbD k = (if hit then !old else old)) ∧
      ∀ t, t = t1 ∨ t = t2 ∨ t = t3 → KeepsAllButRegsCondR5 s t ∧ t.cond = s.cond ∧ t.r5 = s.r5

/-- TSTF, the word 0x0C02 + 64r + 16d + 4b, sets COND when the bit is 1 and leaves it unchanged when the bit is 0;
nothing else changes (44 R183). The field positions, and that COND is not cleared, are the spec's own decisions (log
entries 5 and 15). -/
def Obligations.FlagTestCompletes : Prop :=
  ∀ (s : State) (r : RegName) (d b : BitVec 2),
    decode s.cfg (BitVec.ofNat 16 (0x0C02 + (regIndex r).toNat * 64 + d.toNat * 16 + b.toNat * 4)) = .tstf r d b ∧
    exec (.tstf r d b) s = .next
      (if ((s.reg r).digit (12 + d.toNat)).getLsbD b.toNat = true then { s with cond := true } else s)

/-! ### Mask operations (45) and the digit arithmetic unit (40) -/

/-- ADDJ, ADDK and ADDN, a mask word with L = 0, 1, 2 and N = 0, run Add of the left register and the right operand
into the left register, the right register, or nowhere (45 R193, R194, R195; the effect is that of 40 R101, R103, R104,
R109). The field positions, the sticky COND, and digits above 9 are the spec's own decisions (log entries 5, 15, 16, 17
and 18). -/
def Obligations.AddFamilyCompletes : Prop :=
  ∀ (s : State) (m : BitVec 4) (rg : DigitRange) (j : RegName), isMaskClass m = true →
    s.cfg.range m = some rg →
    let word := fun (k : BitVec 3) (ln : Nat) =>
      BitVec.ofNat 16 (m.toNat * 256 + (regIndex j).toNat * 64 + k.toNat * 8 + ln)
    (∀ k, decode s.cfg (word (operandCode k) 0) = .addj m j k) ∧
    (∀ k, decode s.cfg (word (operandCode (.reg k)) 2) = .addk m j k) ∧
    (∀ k, decode s.cfg (word (operandCode k) 4) = .addn m j k) ∧
    (∀ k, ∃ t, exec (.addj m j k) s = .next t ∧
      AddEffect (some j) (s.reg j) (rightOperand s k rg) rg s t) ∧
    (∀ k, ∃ t, exec (.addk m j k) s = .next t ∧ AddEffect (some k) (s.reg j) (s.reg k) rg s t) ∧
    (∀ k, ∃ t, exec (.addn m j k) s = .next t ∧ AddEffect none (s.reg j) (rightOperand s k rg) rg s t)

/-- SUBJ, SUBK and SUBN, a mask word with L = 0, 1, 2 and N = 1, run Subtract, the left register the minuend, into the
left register, the right register, or nowhere (45 R196, R197, R198; the effect is that of 40 R102, R103, R104, R109).
The field positions, the minuend, the sticky COND and digits above 9 are the spec's own decisions (log entries 5, 15,
16, 17 and 18). -/
def Obligations.SubtractFamilyCompletes : Prop :=
  ∀ (s : State) (m : BitVec 4) (rg : DigitRange) (j : RegName), isMaskClass m = true →
    s.cfg.range m = some rg →
    let word := fun (k : BitVec 3) (ln : Nat) =>
      BitVec.ofNat 16 (m.toNat * 256 + (regIndex j).toNat * 64 + k.toNat * 8 + ln)
    (∀ k, decode s.cfg (word (operandCode k) 1) = .subj m j k) ∧
    (∀ k, decode s.cfg (word (operandCode (.reg k)) 3) = .subk m j k) ∧
    (∀ k, decode s.cfg (word (operandCode k) 5) = .subn m j k) ∧
    (∀ k, ∃ t, exec (.subj m j k) s = .next t ∧
      SubEffect (some j) (s.reg j) (rightOperand s k rg) rg s t) ∧
    (∀ k, ∃ t, exec (.subk m j k) s = .next t ∧ SubEffect (some k) (s.reg j) (s.reg k) rg s t) ∧
    (∀ k, ∃ t, exec (.subn m j k) s = .next t ∧ SubEffect none (s.reg j) (rightOperand s k rg) rg s t)

/-- EXCH, a mask word with K = 0..3, L = 3 and N = 0, swaps the ranges of its two registers and refreshes R5 from the
old left digits; with one register as both operands only R5 changes (45 R199, 40 R107). The code points and R5's high
nibble are the spec's own decisions (log entries 5 and 16). -/
def Obligations.ExchangeCompletes : Prop :=
  ∀ (s : State) (m : BitVec 4) (rg : DigitRange) (j : RegName) (k : RegName), isMaskClass m = true →
    s.cfg.range m = some rg → rg.lo ≤ rg.hi →
    let word := fun (k : BitVec 3) (ln : Nat) =>
      BitVec.ofNat 16 (m.toNat * 256 + (regIndex j).toNat * 64 + k.toNat * 8 + ln)
    decode s.cfg (word (operandCode (.reg k)) 6) = .exch m j k ∧
    ∃ t, exec (.exch m j k) s = .next t ∧ ExchangeEffect j k rg s t

/-- STOR, a mask word with L = 3 and N = 1, copies the range of the right operand into the left register and
refreshes R5 from the source (45 R200, 40 R108). The code points, R5's high nibble and the layout of the R5 operand
are the spec's own decisions (log entries 5, 16 and 18). -/
def Obligations.StoreCompletes : Prop :=
  ∀ (s : State) (m : BitVec 4) (rg : DigitRange) (j : RegName) (k : Operand), isMaskClass m = true →
    s.cfg.range m = some rg →
    let word := fun (k : BitVec 3) (ln : Nat) =>
      BitVec.ofNat 16 (m.toNat * 256 + (regIndex j).toNat * 64 + k.toNat * 8 + ln)
    decode s.cfg (word (operandCode k) 7) = .stor m j k ∧
    ∃ t, exec (.stor m j k) s = .next t ∧ StoreEffect j (rightOperand s k rg) rg s t

/-- SHL and SHLN, a mask word with K = 6, N = 0 and L = 0 or 2, shift the left register's range one digit toward hi
with a zero entering at lo, into the register or nowhere, and refresh R5 from the shifted value; COND is unchanged (45
R201, R203, 40 R105). The code points, the direction and R5's high nibble are the spec's own decisions (log entries 5
and 16). -/
def Obligations.LeftShiftsComplete : Prop :=
  ∀ (s : State) (m : BitVec 4) (rg : DigitRange) (j : RegName), isMaskClass m = true →
    s.cfg.range m = some rg →
    let word := fun (k : BitVec 3) (ln : Nat) =>
      BitVec.ofNat 16 (m.toNat * 256 + (regIndex j).toNat * 64 + k.toNat * 8 + ln)
    decode s.cfg (word 6 0) = .shl m j ∧ decode s.cfg (word 6 4) = .shln m j ∧
    (∃ t, exec (.shl m j) s = .next t ∧ ShiftLeftEffect (some j) (s.reg j) rg s t) ∧
    (∃ t, exec (.shln m j) s = .next t ∧ ShiftLeftEffect none (s.reg j) rg s t)

/-- SHR and SHRN, a mask word with K = 6, N = 1 and L = 0 or 2, shift the left register's range one digit toward lo
with a zero entering at hi, into the register or nowhere, and refresh R5 from the shifted value; COND is unchanged (45
R202, R204, 40 R106). The code points, the direction and R5's high nibble are the spec's own decisions (log entries 5
and 16). -/
def Obligations.RightShiftsComplete : Prop :=
  ∀ (s : State) (m : BitVec 4) (rg : DigitRange) (j : RegName), isMaskClass m = true →
    s.cfg.range m = some rg →
    let word := fun (k : BitVec 3) (ln : Nat) =>
      BitVec.ofNat 16 (m.toNat * 256 + (regIndex j).toNat * 64 + k.toNat * 8 + ln)
    decode s.cfg (word 6 1) = .shr m j ∧ decode s.cfg (word 6 5) = .shrn m j ∧
    (∃ t, exec (.shr m j) s = .next t ∧ ShiftRightEffect (some j) (s.reg j) rg s t) ∧
    (∃ t, exec (.shrn m j) s = .next t ∧ ShiftRightEffect none (s.reg j) rg s t)

/-- NOP-OOR and NOP-M change nothing beyond the increment, and neither does any mask instruction, MASK-RSV among them,
whose M has no range (41 R133, 45 R190, R206). Which M have no range is a parameter (log entry 6). -/
def Obligations.NoOpsComplete : Prop :=
  ∀ (s : State) (m : BitVec 4),
    (∀ w, exec (.nopOor w) s = .next s) ∧ (∀ rest, exec (.nopM m rest) s = .next s) ∧
    (s.cfg.range m = none →
      (∀ j k l n, exec (.maskRsv m j k l n) s = .next s) ∧
      ∀ i, maskOpOf i = some m → exec i s = .next s)

/-- A reserved mask word with a valid M is refused, with the address and the word, or does nothing when
reserved_as_nop is true (45 R205, 41 R137). The field positions and code points are the spec's own decisions (log
entry 5), and so is the refusal (log entries 8 and 26). -/
def Obligations.ReservedMaskWordsRefuseOrDoNothing : Prop :=
  ∀ (s : State) (m : BitVec 4) (rg : DigitRange) (j : RegName) (k : BitVec 3) (l : BitVec 2) (n : BitVec 1),
    s.cfg.range m = some rg →
    (isMaskClass m = true → reservedMask k l n = true → decode s.cfg (BitVec.ofNat 16
      (m.toNat * 256 + (regIndex j).toNat * 64 + k.toNat * 8 + l.toNat * 2 + n.toNat)) = .maskRsv m j k l n) ∧
    (s.cfg.reservedAsNop = true → exec (.maskRsv m j k l n) s = .next s) ∧
    (s.cfg.reservedAsNop = false → exec (.maskRsv m j k l n) s =
      .refused (.reservedMask (s.pc - 1) (BitVec.ofNat 16
        (m.toNat * 256 + (regIndex j).toNat * 64 + k.toNat * 8 + l.toNat * 2 + n.toNat))))

/-- The right operand by K (45 R192): a live register; the constant-1 register; R5's nibbles at lo and, when hi > lo,
at lo + 1; every other digit of a synthesized register is 0. The layout of the R5 register is the spec's own decision
(log entry 18). -/
def Obligations.RightOperandDigits : Prop :=
  ∀ (s : State) (rg : DigitRange) (i : Nat), i < 16 →
    (∀ k, rightOperand s (.reg k) rg = s.reg k) ∧
    ((rightOperand s .one rg).digit i).toNat = (if i = rg.lo.val then 1 else 0) ∧
    ((rightOperand s .r5 rg).digit i).toNat =
      (if i = rg.lo.val then s.r5.toNat % 16
       else if i = rg.lo.val + 1 ∧ rg.lo < rg.hi then s.r5.toNat / 16 else 0)

/-- Subtracting a register from itself clears its range with no borrow: the pseudo-instruction CLR (30 R95, 40 R112)
sets every digit of the range to 0, leaves COND unchanged and R5 at 0, and changes nothing else. That a COND of 1
stays, that R5's high nibble is 0 for a range of one digit, and the pseudo-instruction itself are the spec's own
decisions (log entries 15, 16 and 33). -/
def Obligations.ClearPseudoInstructionClears : Prop :=
  ∀ (s : State) (m : BitVec 4) (rg : DigitRange) (j : RegName), s.cfg.range m = some rg →
    (Pseudo.clr m j).expand = [.subj m j (.reg j)] ∧
    ∃ t, exec (.subj m j (.reg j)) s = .next t ∧
      (∀ i < 16, (t.reg j).digit i = if rg.lo.val ≤ i ∧ i ≤ rg.hi.val then 0 else (s.reg j).digit i) ∧
      (∀ r, r ≠ j → t.reg r = s.reg r) ∧ t.cond = s.cond ∧ t.r5 = 0 ∧ KeepsAllButRegsCondR5 s t

/-- The integer law of Add (40 R114): with every digit of the range below the base, the range is written with the sum
modulo base^n, and the carry out is 1 exactly when the sum reaches base^n. The spec derives the law from 40 R101. -/
def Obligations.AddIsAdditionModuloTheRange : Prop :=
  ∀ (s : State) (left right : Reg) (rg : DigitRange), rg.lo ≤ rg.hi →
    ValidDigits (s.base rg) left rg → ValidDigits (s.base rg) right rg →
    let V := fun r => rangeValue (s.base rg) r rg.lo.val (rangeLength rg)
    let t := rippleDigits (addDigit (s.base rg)) left right rg
    V t = (V left + V right) % s.base rg ^ rangeLength rg ∧
    (rippleOut (addDigit (s.base rg)) left right rg = true ↔ s.base rg ^ rangeLength rg ≤ V left + V right) ∧
    ∀ j : RegName, V ((opAdd (some j) left right rg s).reg j) = V t

/-- The integer law of Subtract (40 R114): with every digit of the range below the base, the range is written with the
difference modulo base^n, and the borrow out is 1 exactly when the minuend is the smaller. The spec derives the law
from 40 R102. -/
def Obligations.SubtractIsSubtractionModuloTheRange : Prop :=
  ∀ (s : State) (left right : Reg) (rg : DigitRange), rg.lo ≤ rg.hi →
    ValidDigits (s.base rg) left rg → ValidDigits (s.base rg) right rg →
    let V := fun r => rangeValue (s.base rg) r rg.lo.val (rangeLength rg)
    let t := rippleDigits (subDigit (s.base rg)) left right rg
    (V t : Int) = ((V left : Int) - V right) % (s.base rg ^ rangeLength rg : Nat) ∧
    (rippleOut (subDigit (s.base rg)) left right rg = true ↔ V left < V right) ∧
    ∀ j : RegName, V ((opSub (some j) left right rg s).reg j) = V t

/-- The round trip of 40 R115: with the digits of the range below the base, an Add of right into left followed by a
Subtract of the same right from the result restores left on [lo, hi], and the Subtract has a borrow out exactly when
the Add had a carry out. The spec derives it from 40 R114; the last clause uses the sticky COND (log entry 15). -/
def Obligations.SubtractUndoesAdd : Prop :=
  ∀ (s : State) (left right : Reg) (rg : DigitRange) (j : RegName),
    ValidDigits (s.base rg) left rg → ValidDigits (s.base rg) right rg →
    let added := opAdd (some j) left right rg s
    let undone := opSub (some j) (added.reg j) right rg added
    (∀ i, rg.lo.val ≤ i → i ≤ rg.hi.val → (undone.reg j).digit i = left.digit i) ∧
    rippleOut (subDigit (added.base rg)) (added.reg j) right rg = rippleOut (addDigit (s.base rg)) left right rg ∧
    (s.cond = false → added.cond = rippleOut (addDigit (s.base rg)) left right rg)

/-! ### Derived outputs (46), keys and display (47), reset (70) -/

/-- The mode is LRN if bit 0 of C[15] is set, else RUN if bit 3 is set, else EVAL; at reset it is EVAL (46 R220). -/
def Obligations.ModeFollowsDigitFifteenOfC : Prop :=
  (∀ s : State, mode s =
    if (s.c.digit 15).toNat % 2 = 1 then .lrn else if 8 ≤ (s.c.digit 15).toNat then .run else .eval) ∧
  mode State.reset = .eval

/-- The activity is that of the first window in list order that holds pc or any of the three stack slots, and BUSY when
none does; KEY_PRESS gives the blinking variant exactly when the error flag is set (46 R223). The order of the windows
is the spec's own decision (log entry 12). -/
def Obligations.ActivityIsTheFirstMatchingWindows : Prop :=
  ∀ s : State,
    let hit := fun w : Window =>
      (w.lo ≤ s.pc ∧ s.pc ≤ w.hi) ∨ (w.lo ≤ s.s0 ∧ s.s0 ≤ w.hi) ∨ (w.lo ≤ s.s1 ∧ s.s1 ≤ w.hi) ∨
        (w.lo ≤ s.s2 ∧ s.s2 ≤ w.hi)
    ((∀ w ∈ s.cfg.windows, ¬hit w) → activity s = .busy) ∧
    ∀ before w after, s.cfg.windows = before ++ w :: after → (∀ v ∈ before, ¬hit v) → hit w →
      activity s = match w.kind with
        | .pause => .pause
        | .long => .long
        | .rsRelease => .pollRsRelease
        | .keyRelease => .pollRelease
        | .keyPress => if errorFlag s = true then .pollPressBlink else .pollPress

/-- The error flag is bit b of digit i of the register ERROR_FLAG names; when it is ABSENT the flag is false and the
blinking variant never occurs (46 R224). That the flag is a parameter is the spec's own decision (log entry 13). -/
def Obligations.ErrorFlagReadsItsBit : Prop :=
  ∀ s : State,
    (s.cfg.errorFlag = none → errorFlag s = false ∧ activity s ≠ .pollPressBlink) ∧
    ∀ e, s.cfg.errorFlag = some e →
      (errorFlag s = true ↔ ((s.reg e.reg).digit e.digit.val).toNat / 2 ^ e.bit.val % 2 = 1)

/-- After `init` the mode is EVAL, and the activity is BUSY under every admitted list of windows (70 R274). That a list
with a window over address 0 is not admitted is the spec's own decision (46 R226, D24; log entry 12). -/
def Obligations.ModeAndActivityAfterInit : Prop :=
  ∀ s : State, s.cfg.WindowsWf →
    mode (init s) = .eval ∧ activity (init s) = .busy

/-- `init` gives every element of 10 R30 its reset value and does not change the ROM or the parameters (70 R270), and the
display is then 12 spaces (70 R272). The values of is_hex, the key latch and the display latches are the spec's own
reading of the source (log entry 21). -/
def Obligations.InitZeroesTheState : Prop :=
  ∀ s : State,
    (∀ r n, ((init s).reg r).digit n = 0) ∧
    (∀ (k : Fin 8) n, ((init s).x.get k).digit n = 0 ∧ ((init s).y.get k).digit n = 0) ∧
    (∀ n, (init s).dA.digit n = 0 ∧ (init s).dB.digit n = 0) ∧
    (init s).rab = 0 ∧ (init s).r5 = 0 ∧ (init s).pc = 0 ∧
    (init s).s0 = 0 ∧ (init s).s1 = 0 ∧ (init s).s2 = 0 ∧ (init s).cond = false ∧ (init s).isHex = false ∧
    (init s).keyRow = 0 ∧ (init s).keyCol = 0 ∧ (init s).keyPressed = false ∧ (init s).displayValid = false ∧
    getDisplay (init s) = List.replicate 12 ' ' ∧
    (∀ p, (init s).rom.read p = s.rom.read p) ∧ (init s).cfg = s.cfg

/-- key_press latches a valid key, overwriting one already pressed, and is refused outside 0..7 and 0..4; key_release
clears key_pressed only, and does nothing when no key is pressed (47 R235 to R239). That repeated actions are tolerated
is the source's recommendation, decided by the spec (log entry 24). -/
def Obligations.KeyActionsLatchOrRefuse : Prop :=
  ∀ s : State,
    (∀ (row : Fin 8) (col : Fin 5),
      keyPress row col s = .next { s with keyRow := row, keyCol := col, keyPressed := true }) ∧
    (∀ row col : Nat, 8 ≤ row ∨ 5 ≤ col → keyPress row col s = .refused (.badKey row col)) ∧
    keyRelease s = { s with keyPressed := false } ∧ (s.keyPressed = false → keyRelease s = s)

/-- A DISP sees the last key pressed before it if it has not been released, and none after a release (47 R237, R240, 70
R277). That a second press overwrites is decided by the spec (log entry 24). -/
def Obligations.DispSeesOnlyAHeldKey : Prop :=
  ∀ (s : State) (r1 r2 : Fin 8) (c1 c2 : Fin 5) (aux : BitVec 4),
    (∃ p q t, keyPress r1 c1 s = .next p ∧ keyPress r2 c2 p = .next q ∧ exec (.disp aux) q = .next t ∧
      t.r5 = (s.cfg.keyCode.get r2).get c2 ∧ t.cond = true ∧ t.keyPressed = true) ∧
    (∃ p t, keyPress r1 c1 s = .next p ∧ exec (.disp aux) (keyRelease p) = .next t ∧
      t.r5 = s.r5 ∧ t.cond = s.cond)

/-- The display is 12 spaces until the first DISP; after it, each of the 12 positions shows one character of `0-9A-F`,
space or `-`, and a full stop if its decimal point is lit, so that the text has 12 to 24 characters (47 R243). The form
of the rendering is the model's choice (log entry 14), display_valid the spec's decision (log entry 22). -/
def Obligations.DisplayTextIsTwelvePositions : Prop :=
  ∀ s : State,
    (s.displayValid = false → getDisplay s = List.replicate 12 ' ') ∧
    ∃ cells : List (Char × Bool), cells.length = 12 ∧
      (∀ cell ∈ cells, cell.1 ∈ hexGlyphs ∨ cell.1 = ' ' ∨ cell.1 = '-') ∧
      getDisplay s = cells.flatMap (fun cell => if cell.2 then [cell.1, '.'] else [cell.1]) ∧
      12 ≤ (getDisplay s).length ∧ (getDisplay s).length ≤ 24
end

