-- ==== Sys2Proof/Laws/Reg.lean ====
section
/-! SUPPORT. Reading the digits of a register back: two registers are equal when their digits are, and what `ofFn`,
`splice` and `setDigit` leave in each digit. -/

namespace Sys2Proof

theorem Reg.ext_digit {r t : Reg} (h : ∀ i < 16, r.digit i = t.digit i) : r = t := by
  cases r; cases t
  congr 1
  ext i hi
  have := h i hi
  simp_all [Reg.digit]

theorem Reg.digit_ofFn (f : Nat → Digit) {i : Nat} (h : i < 16) : (Reg.ofFn f).digit i = f i := by
  simp [Reg.digit, Reg.ofFn, h]

theorem Reg.digit_zero (i : Nat) : Reg.zero.digit i = 0 := by
  by_cases h : i < 16
  · simp [Reg.zero, Reg.digit_ofFn _ h]
  · simp [Reg.digit, h]

/-- A digit of a spliced register comes from `new` inside the range and from `old` outside it (40 R111). -/
theorem Reg.digit_splice (rg : DigitRange) (new old : Reg) {i : Nat} (h : i < 16) :
    (Reg.splice rg new old).digit i = if rg.lo.val ≤ i ∧ i ≤ rg.hi.val then new.digit i else old.digit i :=
  Reg.digit_ofFn _ h

theorem Reg.splice_self (rg : DigitRange) (r : Reg) : Reg.splice rg r r = r :=
  Reg.ext_digit fun i hi => by simp [Reg.digit_splice rg r r hi]

theorem Reg.digit_setDigit (r : Reg) (n : Nat) (v : Digit) {i : Nat} (h : i < 16) :
    (r.setDigit n v).digit i = if i = n then v else r.digit i :=
  Reg.digit_ofFn _ h

end Sys2Proof
end

