-- ==== Sys2Proof/Laws/State.lean ====
section
/-! SUPPORT. One lemma per field of State and update of Machine/Ops.lean, so that no proof unfolds a record update. -/

namespace Sys2Proof.Machine

variable (s : State)

/-! ### setReg -/

@[simp] theorem State.setReg_a (r : RegName) (v : Reg) : (s.setReg r v).a = if r = .A then v else s.a := rfl
@[simp] theorem State.setReg_b (r : RegName) (v : Reg) : (s.setReg r v).b = if r = .B then v else s.b := rfl
@[simp] theorem State.setReg_c (r : RegName) (v : Reg) : (s.setReg r v).c = if r = .C then v else s.c := rfl
@[simp] theorem State.setReg_d (r : RegName) (v : Reg) : (s.setReg r v).d = if r = .D then v else s.d := rfl
@[simp] theorem State.setReg_x (r : RegName) (v : Reg) : (s.setReg r v).x = s.x := rfl
@[simp] theorem State.setReg_y (r : RegName) (v : Reg) : (s.setReg r v).y = s.y := rfl
@[simp] theorem State.setReg_rab (r : RegName) (v : Reg) : (s.setReg r v).rab = s.rab := rfl
@[simp] theorem State.setReg_r5 (r : RegName) (v : Reg) : (s.setReg r v).r5 = s.r5 := rfl
@[simp] theorem State.setReg_pc (r : RegName) (v : Reg) : (s.setReg r v).pc = s.pc := rfl
@[simp] theorem State.setReg_s0 (r : RegName) (v : Reg) : (s.setReg r v).s0 = s.s0 := rfl
@[simp] theorem State.setReg_s1 (r : RegName) (v : Reg) : (s.setReg r v).s1 = s.s1 := rfl
@[simp] theorem State.setReg_s2 (r : RegName) (v : Reg) : (s.setReg r v).s2 = s.s2 := rfl
@[simp] theorem State.setReg_cond (r : RegName) (v : Reg) : (s.setReg r v).cond = s.cond := rfl
@[simp] theorem State.setReg_isHex (r : RegName) (v : Reg) : (s.setReg r v).isHex = s.isHex := rfl
@[simp] theorem State.setReg_keyRow (r : RegName) (v : Reg) : (s.setReg r v).keyRow = s.keyRow := rfl
@[simp] theorem State.setReg_keyCol (r : RegName) (v : Reg) : (s.setReg r v).keyCol = s.keyCol := rfl
@[simp] theorem State.setReg_keyPressed (r : RegName) (v : Reg) : (s.setReg r v).keyPressed = s.keyPressed := rfl
@[simp] theorem State.setReg_dA (r : RegName) (v : Reg) : (s.setReg r v).dA = s.dA := rfl
@[simp] theorem State.setReg_dB (r : RegName) (v : Reg) : (s.setReg r v).dB = s.dB := rfl
@[simp] theorem State.setReg_displayValid (r : RegName) (v : Reg) : (s.setReg r v).displayValid = s.displayValid := rfl
@[simp] theorem State.setReg_rom (r : RegName) (v : Reg) : (s.setReg r v).rom = s.rom := rfl
@[simp] theorem State.setReg_cfg (r : RegName) (v : Reg) : (s.setReg r v).cfg = s.cfg := rfl
@[simp] theorem State.setReg_draws (r : RegName) (v : Reg) : (s.setReg r v).draws = s.draws := rfl

/-! ### setActiveX -/

@[simp] theorem State.setActiveX_a (v : Reg) : (s.setActiveX v).a = s.a := rfl
@[simp] theorem State.setActiveX_b (v : Reg) : (s.setActiveX v).b = s.b := rfl
@[simp] theorem State.setActiveX_c (v : Reg) : (s.setActiveX v).c = s.c := rfl
@[simp] theorem State.setActiveX_d (v : Reg) : (s.setActiveX v).d = s.d := rfl
@[simp] theorem State.setActiveX_x (v : Reg) : (s.setActiveX v).x = s.x.set s.rab.toNat v := rfl
@[simp] theorem State.setActiveX_y (v : Reg) : (s.setActiveX v).y = s.y := rfl
@[simp] theorem State.setActiveX_rab (v : Reg) : (s.setActiveX v).rab = s.rab := rfl
@[simp] theorem State.setActiveX_r5 (v : Reg) : (s.setActiveX v).r5 = s.r5 := rfl
@[simp] theorem State.setActiveX_pc (v : Reg) : (s.setActiveX v).pc = s.pc := rfl
@[simp] theorem State.setActiveX_s0 (v : Reg) : (s.setActiveX v).s0 = s.s0 := rfl
@[simp] theorem State.setActiveX_s1 (v : Reg) : (s.setActiveX v).s1 = s.s1 := rfl
@[simp] theorem State.setActiveX_s2 (v : Reg) : (s.setActiveX v).s2 = s.s2 := rfl
@[simp] theorem State.setActiveX_cond (v : Reg) : (s.setActiveX v).cond = s.cond := rfl
@[simp] theorem State.setActiveX_isHex (v : Reg) : (s.setActiveX v).isHex = s.isHex := rfl
@[simp] theorem State.setActiveX_keyRow (v : Reg) : (s.setActiveX v).keyRow = s.keyRow := rfl
@[simp] theorem State.setActiveX_keyCol (v : Reg) : (s.setActiveX v).keyCol = s.keyCol := rfl
@[simp] theorem State.setActiveX_keyPressed (v : Reg) : (s.setActiveX v).keyPressed = s.keyPressed := rfl
@[simp] theorem State.setActiveX_dA (v : Reg) : (s.setActiveX v).dA = s.dA := rfl
@[simp] theorem State.setActiveX_dB (v : Reg) : (s.setActiveX v).dB = s.dB := rfl
@[simp] theorem State.setActiveX_displayValid (v : Reg) : (s.setActiveX v).displayValid = s.displayValid := rfl
@[simp] theorem State.setActiveX_rom (v : Reg) : (s.setActiveX v).rom = s.rom := rfl
@[simp] theorem State.setActiveX_cfg (v : Reg) : (s.setActiveX v).cfg = s.cfg := rfl
@[simp] theorem State.setActiveX_draws (v : Reg) : (s.setActiveX v).draws = s.draws := rfl

@[simp] theorem State.setActiveX_reg (v : Reg) (q : RegName) : (s.setActiveX v).reg q = s.reg q := by
  cases q <;> rfl

/-! ### setActiveY -/

@[simp] theorem State.setActiveY_a (v : Reg) : (s.setActiveY v).a = s.a := rfl
@[simp] theorem State.setActiveY_b (v : Reg) : (s.setActiveY v).b = s.b := rfl
@[simp] theorem State.setActiveY_c (v : Reg) : (s.setActiveY v).c = s.c := rfl
@[simp] theorem State.setActiveY_d (v : Reg) : (s.setActiveY v).d = s.d := rfl
@[simp] theorem State.setActiveY_x (v : Reg) : (s.setActiveY v).x = s.x := rfl
@[simp] theorem State.setActiveY_y (v : Reg) : (s.setActiveY v).y = s.y.set s.rab.toNat v := rfl
@[simp] theorem State.setActiveY_rab (v : Reg) : (s.setActiveY v).rab = s.rab := rfl
@[simp] theorem State.setActiveY_r5 (v : Reg) : (s.setActiveY v).r5 = s.r5 := rfl
@[simp] theorem State.setActiveY_pc (v : Reg) : (s.setActiveY v).pc = s.pc := rfl
@[simp] theorem State.setActiveY_s0 (v : Reg) : (s.setActiveY v).s0 = s.s0 := rfl
@[simp] theorem State.setActiveY_s1 (v : Reg) : (s.setActiveY v).s1 = s.s1 := rfl
@[simp] theorem State.setActiveY_s2 (v : Reg) : (s.setActiveY v).s2 = s.s2 := rfl
@[simp] theorem State.setActiveY_cond (v : Reg) : (s.setActiveY v).cond = s.cond := rfl
@[simp] theorem State.setActiveY_isHex (v : Reg) : (s.setActiveY v).isHex = s.isHex := rfl
@[simp] theorem State.setActiveY_keyRow (v : Reg) : (s.setActiveY v).keyRow = s.keyRow := rfl
@[simp] theorem State.setActiveY_keyCol (v : Reg) : (s.setActiveY v).keyCol = s.keyCol := rfl
@[simp] theorem State.setActiveY_keyPressed (v : Reg) : (s.setActiveY v).keyPressed = s.keyPressed := rfl
@[simp] theorem State.setActiveY_dA (v : Reg) : (s.setActiveY v).dA = s.dA := rfl
@[simp] theorem State.setActiveY_dB (v : Reg) : (s.setActiveY v).dB = s.dB := rfl
@[simp] theorem State.setActiveY_displayValid (v : Reg) : (s.setActiveY v).displayValid = s.displayValid := rfl
@[simp] theorem State.setActiveY_rom (v : Reg) : (s.setActiveY v).rom = s.rom := rfl
@[simp] theorem State.setActiveY_cfg (v : Reg) : (s.setActiveY v).cfg = s.cfg := rfl
@[simp] theorem State.setActiveY_draws (v : Reg) : (s.setActiveY v).draws = s.draws := rfl

@[simp] theorem State.setActiveY_reg (v : Reg) (q : RegName) : (s.setActiveY v).reg q = s.reg q := by
  cases q <;> rfl

/-! ### setRab -/

@[simp] theorem State.setRab_a (v : BitVec 3) : (s.setRab v).a = s.a := rfl
@[simp] theorem State.setRab_b (v : BitVec 3) : (s.setRab v).b = s.b := rfl
@[simp] theorem State.setRab_c (v : BitVec 3) : (s.setRab v).c = s.c := rfl
@[simp] theorem State.setRab_d (v : BitVec 3) : (s.setRab v).d = s.d := rfl
@[simp] theorem State.setRab_x (v : BitVec 3) : (s.setRab v).x = s.x := rfl
@[simp] theorem State.setRab_y (v : BitVec 3) : (s.setRab v).y = s.y := rfl
@[simp] theorem State.setRab_rab (v : BitVec 3) : (s.setRab v).rab = v := rfl
@[simp] theorem State.setRab_r5 (v : BitVec 3) : (s.setRab v).r5 = s.r5 := rfl
@[simp] theorem State.setRab_pc (v : BitVec 3) : (s.setRab v).pc = s.pc := rfl
@[simp] theorem State.setRab_s0 (v : BitVec 3) : (s.setRab v).s0 = s.s0 := rfl
@[simp] theorem State.setRab_s1 (v : BitVec 3) : (s.setRab v).s1 = s.s1 := rfl
@[simp] theorem State.setRab_s2 (v : BitVec 3) : (s.setRab v).s2 = s.s2 := rfl
@[simp] theorem State.setRab_cond (v : BitVec 3) : (s.setRab v).cond = s.cond := rfl
@[simp] theorem State.setRab_isHex (v : BitVec 3) : (s.setRab v).isHex = s.isHex := rfl
@[simp] theorem State.setRab_keyRow (v : BitVec 3) : (s.setRab v).keyRow = s.keyRow := rfl
@[simp] theorem State.setRab_keyCol (v : BitVec 3) : (s.setRab v).keyCol = s.keyCol := rfl
@[simp] theorem State.setRab_keyPressed (v : BitVec 3) : (s.setRab v).keyPressed = s.keyPressed := rfl
@[simp] theorem State.setRab_dA (v : BitVec 3) : (s.setRab v).dA = s.dA := rfl
@[simp] theorem State.setRab_dB (v : BitVec 3) : (s.setRab v).dB = s.dB := rfl
@[simp] theorem State.setRab_displayValid (v : BitVec 3) : (s.setRab v).displayValid = s.displayValid := rfl
@[simp] theorem State.setRab_rom (v : BitVec 3) : (s.setRab v).rom = s.rom := rfl
@[simp] theorem State.setRab_cfg (v : BitVec 3) : (s.setRab v).cfg = s.cfg := rfl
@[simp] theorem State.setRab_draws (v : BitVec 3) : (s.setRab v).draws = s.draws := rfl

@[simp] theorem State.setRab_reg (v : BitVec 3) (q : RegName) : (s.setRab v).reg q = s.reg q := by
  cases q <;> rfl

/-! ### setR5 -/

@[simp] theorem State.setR5_a (v : BitVec 8) : (s.setR5 v).a = s.a := rfl
@[simp] theorem State.setR5_b (v : BitVec 8) : (s.setR5 v).b = s.b := rfl
@[simp] theorem State.setR5_c (v : BitVec 8) : (s.setR5 v).c = s.c := rfl
@[simp] theorem State.setR5_d (v : BitVec 8) : (s.setR5 v).d = s.d := rfl
@[simp] theorem State.setR5_x (v : BitVec 8) : (s.setR5 v).x = s.x := rfl
@[simp] theorem State.setR5_y (v : BitVec 8) : (s.setR5 v).y = s.y := rfl
@[simp] theorem State.setR5_rab (v : BitVec 8) : (s.setR5 v).rab = s.rab := rfl
@[simp] theorem State.setR5_r5 (v : BitVec 8) : (s.setR5 v).r5 = v := rfl
@[simp] theorem State.setR5_pc (v : BitVec 8) : (s.setR5 v).pc = s.pc := rfl
@[simp] theorem State.setR5_s0 (v : BitVec 8) : (s.setR5 v).s0 = s.s0 := rfl
@[simp] theorem State.setR5_s1 (v : BitVec 8) : (s.setR5 v).s1 = s.s1 := rfl
@[simp] theorem State.setR5_s2 (v : BitVec 8) : (s.setR5 v).s2 = s.s2 := rfl
@[simp] theorem State.setR5_cond (v : BitVec 8) : (s.setR5 v).cond = s.cond := rfl
@[simp] theorem State.setR5_isHex (v : BitVec 8) : (s.setR5 v).isHex = s.isHex := rfl
@[simp] theorem State.setR5_keyRow (v : BitVec 8) : (s.setR5 v).keyRow = s.keyRow := rfl
@[simp] theorem State.setR5_keyCol (v : BitVec 8) : (s.setR5 v).keyCol = s.keyCol := rfl
@[simp] theorem State.setR5_keyPressed (v : BitVec 8) : (s.setR5 v).keyPressed = s.keyPressed := rfl
@[simp] theorem State.setR5_dA (v : BitVec 8) : (s.setR5 v).dA = s.dA := rfl
@[simp] theorem State.setR5_dB (v : BitVec 8) : (s.setR5 v).dB = s.dB := rfl
@[simp] theorem State.setR5_displayValid (v : BitVec 8) : (s.setR5 v).displayValid = s.displayValid := rfl
@[simp] theorem State.setR5_rom (v : BitVec 8) : (s.setR5 v).rom = s.rom := rfl
@[simp] theorem State.setR5_cfg (v : BitVec 8) : (s.setR5 v).cfg = s.cfg := rfl
@[simp] theorem State.setR5_draws (v : BitVec 8) : (s.setR5 v).draws = s.draws := rfl

@[simp] theorem State.setR5_reg (v : BitVec 8) (q : RegName) : (s.setR5 v).reg q = s.reg q := by
  cases q <;> rfl

/-! ### setPc -/

@[simp] theorem State.setPc_a (v : Addr) : (s.setPc v).a = s.a := rfl
@[simp] theorem State.setPc_b (v : Addr) : (s.setPc v).b = s.b := rfl
@[simp] theorem State.setPc_c (v : Addr) : (s.setPc v).c = s.c := rfl
@[simp] theorem State.setPc_d (v : Addr) : (s.setPc v).d = s.d := rfl
@[simp] theorem State.setPc_x (v : Addr) : (s.setPc v).x = s.x := rfl
@[simp] theorem State.setPc_y (v : Addr) : (s.setPc v).y = s.y := rfl
@[simp] theorem State.setPc_rab (v : Addr) : (s.setPc v).rab = s.rab := rfl
@[simp] theorem State.setPc_r5 (v : Addr) : (s.setPc v).r5 = s.r5 := rfl
@[simp] theorem State.setPc_pc (v : Addr) : (s.setPc v).pc = v := rfl
@[simp] theorem State.setPc_s0 (v : Addr) : (s.setPc v).s0 = s.s0 := rfl
@[simp] theorem State.setPc_s1 (v : Addr) : (s.setPc v).s1 = s.s1 := rfl
@[simp] theorem State.setPc_s2 (v : Addr) : (s.setPc v).s2 = s.s2 := rfl
@[simp] theorem State.setPc_cond (v : Addr) : (s.setPc v).cond = s.cond := rfl
@[simp] theorem State.setPc_isHex (v : Addr) : (s.setPc v).isHex = s.isHex := rfl
@[simp] theorem State.setPc_keyRow (v : Addr) : (s.setPc v).keyRow = s.keyRow := rfl
@[simp] theorem State.setPc_keyCol (v : Addr) : (s.setPc v).keyCol = s.keyCol := rfl
@[simp] theorem State.setPc_keyPressed (v : Addr) : (s.setPc v).keyPressed = s.keyPressed := rfl
@[simp] theorem State.setPc_dA (v : Addr) : (s.setPc v).dA = s.dA := rfl
@[simp] theorem State.setPc_dB (v : Addr) : (s.setPc v).dB = s.dB := rfl
@[simp] theorem State.setPc_displayValid (v : Addr) : (s.setPc v).displayValid = s.displayValid := rfl
@[simp] theorem State.setPc_rom (v : Addr) : (s.setPc v).rom = s.rom := rfl
@[simp] theorem State.setPc_cfg (v : Addr) : (s.setPc v).cfg = s.cfg := rfl
@[simp] theorem State.setPc_draws (v : Addr) : (s.setPc v).draws = s.draws := rfl

@[simp] theorem State.setPc_reg (v : Addr) (q : RegName) : (s.setPc v).reg q = s.reg q := by
  cases q <;> rfl

/-! ### setCond -/

@[simp] theorem State.setCond_a (v : Bool) : (s.setCond v).a = s.a := rfl
@[simp] theorem State.setCond_b (v : Bool) : (s.setCond v).b = s.b := rfl
@[simp] theorem State.setCond_c (v : Bool) : (s.setCond v).c = s.c := rfl
@[simp] theorem State.setCond_d (v : Bool) : (s.setCond v).d = s.d := rfl
@[simp] theorem State.setCond_x (v : Bool) : (s.setCond v).x = s.x := rfl
@[simp] theorem State.setCond_y (v : Bool) : (s.setCond v).y = s.y := rfl
@[simp] theorem State.setCond_rab (v : Bool) : (s.setCond v).rab = s.rab := rfl
@[simp] theorem State.setCond_r5 (v : Bool) : (s.setCond v).r5 = s.r5 := rfl
@[simp] theorem State.setCond_pc (v : Bool) : (s.setCond v).pc = s.pc := rfl
@[simp] theorem State.setCond_s0 (v : Bool) : (s.setCond v).s0 = s.s0 := rfl
@[simp] theorem State.setCond_s1 (v : Bool) : (s.setCond v).s1 = s.s1 := rfl
@[simp] theorem State.setCond_s2 (v : Bool) : (s.setCond v).s2 = s.s2 := rfl
@[simp] theorem State.setCond_cond (v : Bool) : (s.setCond v).cond = v := rfl
@[simp] theorem State.setCond_isHex (v : Bool) : (s.setCond v).isHex = s.isHex := rfl
@[simp] theorem State.setCond_keyRow (v : Bool) : (s.setCond v).keyRow = s.keyRow := rfl
@[simp] theorem State.setCond_keyCol (v : Bool) : (s.setCond v).keyCol = s.keyCol := rfl
@[simp] theorem State.setCond_keyPressed (v : Bool) : (s.setCond v).keyPressed = s.keyPressed := rfl
@[simp] theorem State.setCond_dA (v : Bool) : (s.setCond v).dA = s.dA := rfl
@[simp] theorem State.setCond_dB (v : Bool) : (s.setCond v).dB = s.dB := rfl
@[simp] theorem State.setCond_displayValid (v : Bool) : (s.setCond v).displayValid = s.displayValid := rfl
@[simp] theorem State.setCond_rom (v : Bool) : (s.setCond v).rom = s.rom := rfl
@[simp] theorem State.setCond_cfg (v : Bool) : (s.setCond v).cfg = s.cfg := rfl
@[simp] theorem State.setCond_draws (v : Bool) : (s.setCond v).draws = s.draws := rfl

@[simp] theorem State.setCond_reg (v : Bool) (q : RegName) : (s.setCond v).reg q = s.reg q := by
  cases q <;> rfl

/-! ### setHex -/

@[simp] theorem State.setHex_a (v : Bool) : (s.setHex v).a = s.a := rfl
@[simp] theorem State.setHex_b (v : Bool) : (s.setHex v).b = s.b := rfl
@[simp] theorem State.setHex_c (v : Bool) : (s.setHex v).c = s.c := rfl
@[simp] theorem State.setHex_d (v : Bool) : (s.setHex v).d = s.d := rfl
@[simp] theorem State.setHex_x (v : Bool) : (s.setHex v).x = s.x := rfl
@[simp] theorem State.setHex_y (v : Bool) : (s.setHex v).y = s.y := rfl
@[simp] theorem State.setHex_rab (v : Bool) : (s.setHex v).rab = s.rab := rfl
@[simp] theorem State.setHex_r5 (v : Bool) : (s.setHex v).r5 = s.r5 := rfl
@[simp] theorem State.setHex_pc (v : Bool) : (s.setHex v).pc = s.pc := rfl
@[simp] theorem State.setHex_s0 (v : Bool) : (s.setHex v).s0 = s.s0 := rfl
@[simp] theorem State.setHex_s1 (v : Bool) : (s.setHex v).s1 = s.s1 := rfl
@[simp] theorem State.setHex_s2 (v : Bool) : (s.setHex v).s2 = s.s2 := rfl
@[simp] theorem State.setHex_cond (v : Bool) : (s.setHex v).cond = s.cond := rfl
@[simp] theorem State.setHex_isHex (v : Bool) : (s.setHex v).isHex = v := rfl
@[simp] theorem State.setHex_keyRow (v : Bool) : (s.setHex v).keyRow = s.keyRow := rfl
@[simp] theorem State.setHex_keyCol (v : Bool) : (s.setHex v).keyCol = s.keyCol := rfl
@[simp] theorem State.setHex_keyPressed (v : Bool) : (s.setHex v).keyPressed = s.keyPressed := rfl
@[simp] theorem State.setHex_dA (v : Bool) : (s.setHex v).dA = s.dA := rfl
@[simp] theorem State.setHex_dB (v : Bool) : (s.setHex v).dB = s.dB := rfl
@[simp] theorem State.setHex_displayValid (v : Bool) : (s.setHex v).displayValid = s.displayValid := rfl
@[simp] theorem State.setHex_rom (v : Bool) : (s.setHex v).rom = s.rom := rfl
@[simp] theorem State.setHex_cfg (v : Bool) : (s.setHex v).cfg = s.cfg := rfl
@[simp] theorem State.setHex_draws (v : Bool) : (s.setHex v).draws = s.draws := rfl

@[simp] theorem State.setHex_reg (v : Bool) (q : RegName) : (s.setHex v).reg q = s.reg q := by
  cases q <;> rfl

/-! ### setStack -/

@[simp] theorem State.setStack_a (v0 v1 v2 : Addr) (n : Nat) : (s.setStack v0 v1 v2 n).a = s.a := rfl
@[simp] theorem State.setStack_b (v0 v1 v2 : Addr) (n : Nat) : (s.setStack v0 v1 v2 n).b = s.b := rfl
@[simp] theorem State.setStack_c (v0 v1 v2 : Addr) (n : Nat) : (s.setStack v0 v1 v2 n).c = s.c := rfl
@[simp] theorem State.setStack_d (v0 v1 v2 : Addr) (n : Nat) : (s.setStack v0 v1 v2 n).d = s.d := rfl
@[simp] theorem State.setStack_x (v0 v1 v2 : Addr) (n : Nat) : (s.setStack v0 v1 v2 n).x = s.x := rfl
@[simp] theorem State.setStack_y (v0 v1 v2 : Addr) (n : Nat) : (s.setStack v0 v1 v2 n).y = s.y := rfl
@[simp] theorem State.setStack_rab (v0 v1 v2 : Addr) (n : Nat) : (s.setStack v0 v1 v2 n).rab = s.rab := rfl
@[simp] theorem State.setStack_r5 (v0 v1 v2 : Addr) (n : Nat) : (s.setStack v0 v1 v2 n).r5 = s.r5 := rfl
@[simp] theorem State.setStack_pc (v0 v1 v2 : Addr) (n : Nat) : (s.setStack v0 v1 v2 n).pc = s.pc := rfl
@[simp] theorem State.setStack_s0 (v0 v1 v2 : Addr) (n : Nat) : (s.setStack v0 v1 v2 n).s0 = v0 := rfl
@[simp] theorem State.setStack_s1 (v0 v1 v2 : Addr) (n : Nat) : (s.setStack v0 v1 v2 n).s1 = v1 := rfl
@[simp] theorem State.setStack_s2 (v0 v1 v2 : Addr) (n : Nat) : (s.setStack v0 v1 v2 n).s2 = v2 := rfl
@[simp] theorem State.setStack_cond (v0 v1 v2 : Addr) (n : Nat) : (s.setStack v0 v1 v2 n).cond = s.cond := rfl
@[simp] theorem State.setStack_isHex (v0 v1 v2 : Addr) (n : Nat) : (s.setStack v0 v1 v2 n).isHex = s.isHex := rfl
@[simp] theorem State.setStack_keyRow (v0 v1 v2 : Addr) (n : Nat) : (s.setStack v0 v1 v2 n).keyRow = s.keyRow := rfl
@[simp] theorem State.setStack_keyCol (v0 v1 v2 : Addr) (n : Nat) : (s.setStack v0 v1 v2 n).keyCol = s.keyCol := rfl
@[simp] theorem State.setStack_keyPressed (v0 v1 v2 : Addr) (n : Nat) : (s.setStack v0 v1 v2 n).keyPressed = s.keyPressed := rfl
@[simp] theorem State.setStack_dA (v0 v1 v2 : Addr) (n : Nat) : (s.setStack v0 v1 v2 n).dA = s.dA := rfl
@[simp] theorem State.setStack_dB (v0 v1 v2 : Addr) (n : Nat) : (s.setStack v0 v1 v2 n).dB = s.dB := rfl
@[simp] theorem State.setStack_displayValid (v0 v1 v2 : Addr) (n : Nat) : (s.setStack v0 v1 v2 n).displayValid = s.displayValid := rfl
@[simp] theorem State.setStack_rom (v0 v1 v2 : Addr) (n : Nat) : (s.setStack v0 v1 v2 n).rom = s.rom := rfl
@[simp] theorem State.setStack_cfg (v0 v1 v2 : Addr) (n : Nat) : (s.setStack v0 v1 v2 n).cfg = s.cfg := rfl
@[simp] theorem State.setStack_draws (v0 v1 v2 : Addr) (n : Nat) : (s.setStack v0 v1 v2 n).draws = n := rfl

@[simp] theorem State.setStack_reg (v0 v1 v2 : Addr) (n : Nat) (q : RegName) : (s.setStack v0 v1 v2 n).reg q = s.reg q := by
  cases q <;> rfl

/-! ### setKey -/

@[simp] theorem State.setKey_a (row : Fin 8) (col : Fin 5) (p : Bool) : (s.setKey row col p).a = s.a := rfl
@[simp] theorem State.setKey_b (row : Fin 8) (col : Fin 5) (p : Bool) : (s.setKey row col p).b = s.b := rfl
@[simp] theorem State.setKey_c (row : Fin 8) (col : Fin 5) (p : Bool) : (s.setKey row col p).c = s.c := rfl
@[simp] theorem State.setKey_d (row : Fin 8) (col : Fin 5) (p : Bool) : (s.setKey row col p).d = s.d := rfl
@[simp] theorem State.setKey_x (row : Fin 8) (col : Fin 5) (p : Bool) : (s.setKey row col p).x = s.x := rfl
@[simp] theorem State.setKey_y (row : Fin 8) (col : Fin 5) (p : Bool) : (s.setKey row col p).y = s.y := rfl
@[simp] theorem State.setKey_rab (row : Fin 8) (col : Fin 5) (p : Bool) : (s.setKey row col p).rab = s.rab := rfl
@[simp] theorem State.setKey_r5 (row : Fin 8) (col : Fin 5) (p : Bool) : (s.setKey row col p).r5 = s.r5 := rfl
@[simp] theorem State.setKey_pc (row : Fin 8) (col : Fin 5) (p : Bool) : (s.setKey row col p).pc = s.pc := rfl
@[simp] theorem State.setKey_s0 (row : Fin 8) (col : Fin 5) (p : Bool) : (s.setKey row col p).s0 = s.s0 := rfl
@[simp] theorem State.setKey_s1 (row : Fin 8) (col : Fin 5) (p : Bool) : (s.setKey row col p).s1 = s.s1 := rfl
@[simp] theorem State.setKey_s2 (row : Fin 8) (col : Fin 5) (p : Bool) : (s.setKey row col p).s2 = s.s2 := rfl
@[simp] theorem State.setKey_cond (row : Fin 8) (col : Fin 5) (p : Bool) : (s.setKey row col p).cond = s.cond := rfl
@[simp] theorem State.setKey_isHex (row : Fin 8) (col : Fin 5) (p : Bool) : (s.setKey row col p).isHex = s.isHex := rfl
@[simp] theorem State.setKey_keyRow (row : Fin 8) (col : Fin 5) (p : Bool) : (s.setKey row col p).keyRow = row := rfl
@[simp] theorem State.setKey_keyCol (row : Fin 8) (col : Fin 5) (p : Bool) : (s.setKey row col p).keyCol = col := rfl
@[simp] theorem State.setKey_keyPressed (row : Fin 8) (col : Fin 5) (p : Bool) : (s.setKey row col p).keyPressed = p := rfl
@[simp] theorem State.setKey_dA (row : Fin 8) (col : Fin 5) (p : Bool) : (s.setKey row col p).dA = s.dA := rfl
@[simp] theorem State.setKey_dB (row : Fin 8) (col : Fin 5) (p : Bool) : (s.setKey row col p).dB = s.dB := rfl
@[simp] theorem State.setKey_displayValid (row : Fin 8) (col : Fin 5) (p : Bool) : (s.setKey row col p).displayValid = s.displayValid := rfl
@[simp] theorem State.setKey_rom (row : Fin 8) (col : Fin 5) (p : Bool) : (s.setKey row col p).rom = s.rom := rfl
@[simp] theorem State.setKey_cfg (row : Fin 8) (col : Fin 5) (p : Bool) : (s.setKey row col p).cfg = s.cfg := rfl
@[simp] theorem State.setKey_draws (row : Fin 8) (col : Fin 5) (p : Bool) : (s.setKey row col p).draws = s.draws := rfl

@[simp] theorem State.setKey_reg (row : Fin 8) (col : Fin 5) (p : Bool) (q : RegName) : (s.setKey row col p).reg q = s.reg q := by
  cases q <;> rfl

/-! ### latchDisplay -/

@[simp] theorem State.latchDisplay_a (vA vB : Reg) : (s.latchDisplay vA vB).a = s.a := rfl
@[simp] theorem State.latchDisplay_b (vA vB : Reg) : (s.latchDisplay vA vB).b = s.b := rfl
@[simp] theorem State.latchDisplay_c (vA vB : Reg) : (s.latchDisplay vA vB).c = s.c := rfl
@[simp] theorem State.latchDisplay_d (vA vB : Reg) : (s.latchDisplay vA vB).d = s.d := rfl
@[simp] theorem State.latchDisplay_x (vA vB : Reg) : (s.latchDisplay vA vB).x = s.x := rfl
@[simp] theorem State.latchDisplay_y (vA vB : Reg) : (s.latchDisplay vA vB).y = s.y := rfl
@[simp] theorem State.latchDisplay_rab (vA vB : Reg) : (s.latchDisplay vA vB).rab = s.rab := rfl
@[simp] theorem State.latchDisplay_r5 (vA vB : Reg) : (s.latchDisplay vA vB).r5 = s.r5 := rfl
@[simp] theorem State.latchDisplay_pc (vA vB : Reg) : (s.latchDisplay vA vB).pc = s.pc := rfl
@[simp] theorem State.latchDisplay_s0 (vA vB : Reg) : (s.latchDisplay vA vB).s0 = s.s0 := rfl
@[simp] theorem State.latchDisplay_s1 (vA vB : Reg) : (s.latchDisplay vA vB).s1 = s.s1 := rfl
@[simp] theorem State.latchDisplay_s2 (vA vB : Reg) : (s.latchDisplay vA vB).s2 = s.s2 := rfl
@[simp] theorem State.latchDisplay_cond (vA vB : Reg) : (s.latchDisplay vA vB).cond = s.cond := rfl
@[simp] theorem State.latchDisplay_isHex (vA vB : Reg) : (s.latchDisplay vA vB).isHex = s.isHex := rfl
@[simp] theorem State.latchDisplay_keyRow (vA vB : Reg) : (s.latchDisplay vA vB).keyRow = s.keyRow := rfl
@[simp] theorem State.latchDisplay_keyCol (vA vB : Reg) : (s.latchDisplay vA vB).keyCol = s.keyCol := rfl
@[simp] theorem State.latchDisplay_keyPressed (vA vB : Reg) : (s.latchDisplay vA vB).keyPressed = s.keyPressed := rfl
@[simp] theorem State.latchDisplay_dA (vA vB : Reg) : (s.latchDisplay vA vB).dA = vA := rfl
@[simp] theorem State.latchDisplay_dB (vA vB : Reg) : (s.latchDisplay vA vB).dB = vB := rfl
@[simp] theorem State.latchDisplay_displayValid (vA vB : Reg) : (s.latchDisplay vA vB).displayValid = true := rfl
@[simp] theorem State.latchDisplay_rom (vA vB : Reg) : (s.latchDisplay vA vB).rom = s.rom := rfl
@[simp] theorem State.latchDisplay_cfg (vA vB : Reg) : (s.latchDisplay vA vB).cfg = s.cfg := rfl
@[simp] theorem State.latchDisplay_draws (vA vB : Reg) : (s.latchDisplay vA vB).draws = s.draws := rfl

@[simp] theorem State.latchDisplay_reg (vA vB : Reg) (q : RegName) : (s.latchDisplay vA vB).reg q = s.reg q := by
  cases q <;> rfl

/-! ### setRom -/

@[simp] theorem State.setRom_a (m : Memory) : (s.setRom m).a = s.a := rfl
@[simp] theorem State.setRom_b (m : Memory) : (s.setRom m).b = s.b := rfl
@[simp] theorem State.setRom_c (m : Memory) : (s.setRom m).c = s.c := rfl
@[simp] theorem State.setRom_d (m : Memory) : (s.setRom m).d = s.d := rfl
@[simp] theorem State.setRom_x (m : Memory) : (s.setRom m).x = s.x := rfl
@[simp] theorem State.setRom_y (m : Memory) : (s.setRom m).y = s.y := rfl
@[simp] theorem State.setRom_rab (m : Memory) : (s.setRom m).rab = s.rab := rfl
@[simp] theorem State.setRom_r5 (m : Memory) : (s.setRom m).r5 = s.r5 := rfl
@[simp] theorem State.setRom_pc (m : Memory) : (s.setRom m).pc = s.pc := rfl
@[simp] theorem State.setRom_s0 (m : Memory) : (s.setRom m).s0 = s.s0 := rfl
@[simp] theorem State.setRom_s1 (m : Memory) : (s.setRom m).s1 = s.s1 := rfl
@[simp] theorem State.setRom_s2 (m : Memory) : (s.setRom m).s2 = s.s2 := rfl
@[simp] theorem State.setRom_cond (m : Memory) : (s.setRom m).cond = s.cond := rfl
@[simp] theorem State.setRom_isHex (m : Memory) : (s.setRom m).isHex = s.isHex := rfl
@[simp] theorem State.setRom_keyRow (m : Memory) : (s.setRom m).keyRow = s.keyRow := rfl
@[simp] theorem State.setRom_keyCol (m : Memory) : (s.setRom m).keyCol = s.keyCol := rfl
@[simp] theorem State.setRom_keyPressed (m : Memory) : (s.setRom m).keyPressed = s.keyPressed := rfl
@[simp] theorem State.setRom_dA (m : Memory) : (s.setRom m).dA = s.dA := rfl
@[simp] theorem State.setRom_dB (m : Memory) : (s.setRom m).dB = s.dB := rfl
@[simp] theorem State.setRom_displayValid (m : Memory) : (s.setRom m).displayValid = s.displayValid := rfl
@[simp] theorem State.setRom_rom (m : Memory) : (s.setRom m).rom = m := rfl
@[simp] theorem State.setRom_cfg (m : Memory) : (s.setRom m).cfg = s.cfg := rfl
@[simp] theorem State.setRom_draws (m : Memory) : (s.setRom m).draws = s.draws := rfl

@[simp] theorem State.setRom_reg (m : Memory) (q : RegName) : (s.setRom m).reg q = s.reg q := by
  cases q <;> rfl

/-! ### Reading a register back -/

/-- A register reads as written; the others read as before. -/
@[simp] theorem State.setReg_reg (r : RegName) (v : Reg) (q : RegName) :
    (s.setReg r v).reg q = if q = r then v else s.reg q := by
  cases r <;> cases q <;> rfl

/-- The increment changes pc only. -/
@[simp] theorem State.advance_eq : s.advance = s.setPc (s.pc + 1) := rfl

end Sys2Proof.Machine
end

