-- ==== Sys2Proof/Laws/Ops.lean ====
section
/-! SUPPORT. For each shared operation, what it leaves in every part of the state, said once. -/

namespace Sys2Proof.Machine

variable (s : State)

/-! ### Status operations, as the basic updates they are -/

@[simp] theorem State.raiseCond_eq (e : Bool) : s.raiseCond e = s.setCond (s.cond || e) := rfl
@[simp] theorem State.clearCond_eq : s.clearCond = s.setCond false := rfl
@[simp] theorem State.refreshR5_eq (r : Reg) (rg : DigitRange) : s.refreshR5 r rg = s.setR5 (refreshValue r rg) := rfl

/-- The refreshed R5 as a number: digit lo, and 16 times digit lo + 1 when hi > lo (40 R109). -/
theorem refreshValue_toNat (r : Reg) (rg : DigitRange) :
    (refreshValue r rg).toNat =
      (r.digit rg.lo.val).toNat + 16 * (if rg.lo < rg.hi then (r.digit (rg.lo.val + 1)).toNat else 0) := by
  have h := (r.digit rg.lo.val).isLt
  simp only [refreshValue, BitVec.toNat_append, Nat.shiftLeft_eq]
  rw [Nat.mul_comm, ← Nat.two_pow_add_eq_or_of_lt (i := 4) h]
  split <;> simp [Nat.add_comm]

/-! ### The return stack -/

@[simp] theorem State.push_eq (v : Addr) : s.push v = s.setStack v s.s0 s.s1 s.draws := rfl

/-- A pop under KEEP leaves the bottom slot as it was (10 R40). -/
theorem State.pop_keep (h : s.cfg.popFill = .keep) : s.pop = s.setStack s.s1 s.s2 s.s2 s.draws := by
  simp [State.pop, h]

/-- A pop under DRAW leaves a free value in the bottom slot (10 R40). -/
theorem State.pop_draw (h : s.cfg.popFill = .draw) :
    s.pop = s.setStack s.s1 s.s2 (Config.freeSlot s.draws) (s.draws + 1) := by
  simp [State.pop, h]

/-- Whatever fills the bottom slot, a pop moves the two others up and changes nothing else. -/
theorem State.pop_cases : ∃ v n, s.pop = s.setStack s.s1 s.s2 v n := by
  cases h : s.cfg.popFill
  · exact ⟨_, _, s.pop_keep h⟩
  · exact ⟨_, _, s.pop_draw h⟩

/-! ### Writing a digit range -/

theorem State.writeRange_reg (dest : Option RegName) (rg : DigitRange) (t : Reg) (q : RegName) :
    (s.writeRange dest rg t).reg q = if dest = some q then Reg.splice rg t (s.reg q) else s.reg q := by
  cases dest with
  | none => simp [State.writeRange]
  | some r =>
    by_cases h : q = r
    · simp [State.writeRange, h]
    · simp [State.writeRange, h, Ne.symm h]

@[simp] theorem State.writeRange_x (dest : Option RegName) (rg : DigitRange) (t : Reg) :
    (s.writeRange dest rg t).x = s.x := by cases dest <;> rfl
@[simp] theorem State.writeRange_y (dest : Option RegName) (rg : DigitRange) (t : Reg) :
    (s.writeRange dest rg t).y = s.y := by cases dest <;> rfl
@[simp] theorem State.writeRange_rab (dest : Option RegName) (rg : DigitRange) (t : Reg) :
    (s.writeRange dest rg t).rab = s.rab := by cases dest <;> rfl
@[simp] theorem State.writeRange_r5 (dest : Option RegName) (rg : DigitRange) (t : Reg) :
    (s.writeRange dest rg t).r5 = s.r5 := by cases dest <;> rfl
@[simp] theorem State.writeRange_pc (dest : Option RegName) (rg : DigitRange) (t : Reg) :
    (s.writeRange dest rg t).pc = s.pc := by cases dest <;> rfl
@[simp] theorem State.writeRange_s0 (dest : Option RegName) (rg : DigitRange) (t : Reg) :
    (s.writeRange dest rg t).s0 = s.s0 := by cases dest <;> rfl
@[simp] theorem State.writeRange_s1 (dest : Option RegName) (rg : DigitRange) (t : Reg) :
    (s.writeRange dest rg t).s1 = s.s1 := by cases dest <;> rfl
@[simp] theorem State.writeRange_s2 (dest : Option RegName) (rg : DigitRange) (t : Reg) :
    (s.writeRange dest rg t).s2 = s.s2 := by cases dest <;> rfl
@[simp] theorem State.writeRange_cond (dest : Option RegName) (rg : DigitRange) (t : Reg) :
    (s.writeRange dest rg t).cond = s.cond := by cases dest <;> rfl
@[simp] theorem State.writeRange_isHex (dest : Option RegName) (rg : DigitRange) (t : Reg) :
    (s.writeRange dest rg t).isHex = s.isHex := by cases dest <;> rfl
@[simp] theorem State.writeRange_keyRow (dest : Option RegName) (rg : DigitRange) (t : Reg) :
    (s.writeRange dest rg t).keyRow = s.keyRow := by cases dest <;> rfl
@[simp] theorem State.writeRange_keyCol (dest : Option RegName) (rg : DigitRange) (t : Reg) :
    (s.writeRange dest rg t).keyCol = s.keyCol := by cases dest <;> rfl
@[simp] theorem State.writeRange_keyPressed (dest : Option RegName) (rg : DigitRange) (t : Reg) :
    (s.writeRange dest rg t).keyPressed = s.keyPressed := by cases dest <;> rfl
@[simp] theorem State.writeRange_dA (dest : Option RegName) (rg : DigitRange) (t : Reg) :
    (s.writeRange dest rg t).dA = s.dA := by cases dest <;> rfl
@[simp] theorem State.writeRange_dB (dest : Option RegName) (rg : DigitRange) (t : Reg) :
    (s.writeRange dest rg t).dB = s.dB := by cases dest <;> rfl
@[simp] theorem State.writeRange_displayValid (dest : Option RegName) (rg : DigitRange) (t : Reg) :
    (s.writeRange dest rg t).displayValid = s.displayValid := by cases dest <;> rfl
@[simp] theorem State.writeRange_rom (dest : Option RegName) (rg : DigitRange) (t : Reg) :
    (s.writeRange dest rg t).rom = s.rom := by cases dest <;> rfl
@[simp] theorem State.writeRange_cfg (dest : Option RegName) (rg : DigitRange) (t : Reg) :
    (s.writeRange dest rg t).cfg = s.cfg := by cases dest <;> rfl
@[simp] theorem State.writeRange_draws (dest : Option RegName) (rg : DigitRange) (t : Reg) :
    (s.writeRange dest rg t).draws = s.draws := by cases dest <;> rfl

/-- A range write changes the destination on the range and nothing else. -/
theorem writeRange_writes (dest : Option RegName) (rg : DigitRange) (t : Reg) (s' : State)
    (h : ∀ q, s'.reg q = (s.writeRange dest rg t).reg q) : WritesRange dest rg t s s' := by
  refine ⟨fun r hr => ?_, fun r hr i hi => ?_⟩
  · simp [h, State.writeRange_reg, hr]
  · simp [h, State.writeRange_reg, hr, Reg.digit_splice _ _ _ hi]

/-! ### Flag digits -/

/-- Updating a flag digit changes that digit of that register and nothing else (44 R180). -/
theorem State.updateFlag_digit (r : RegName) (d : BitVec 2) (f : Digit → Digit) (q : RegName) {i : Nat} (hi : i < 16) :
    ((s.updateFlag r d f).reg q).digit i =
      if q = r ∧ i = flagDigit d then f ((s.reg q).digit i) else (s.reg q).digit i := by
  by_cases hq : q = r
  · subst hq
    by_cases hd : i = flagDigit d
    · subst hd
      simp [State.updateFlag, Reg.digit_setDigit _ _ _ hi]
    · simp [State.updateFlag, Reg.digit_setDigit _ _ _ hi, hd]
  · simp [State.updateFlag, hq]

/-! ### The key scan -/

/-- The key scan of DISP writes R5 and COND when a key is pressed and nothing otherwise (43 R168). -/
theorem State.scanKey_cases :
    (s.keyPressed = true ∧ s.scanKey = (s.setR5 s.scanCode).setCond true) ∨
      (s.keyPressed = false ∧ s.scanKey = s) := by
  cases h : s.keyPressed <;> simp [State.scanKey, h]

/-! ### Branches -/

/-- A branch sets pc when COND equals op[10], clears COND, and changes nothing else (42 R150). -/
theorem branchIf_eq (op10 : Bool) (a : BitVec 10) :
    branchIf op10 a s = (s.setPc (if s.cond = op10 then branchTarget s.pc a else s.pc)).setCond false := by
  by_cases h : s.cond = op10 <;> simp [branchIf, h, State.setPc, State.setCond]

/-! ### Mask ops -/

/-- A mask op answers with its primitive's state on the range of M, or with the state as it was when M has none. -/
theorem onRange_some {m : BitVec 4} {rg : DigitRange} (h : s.cfg.range m = some rg)
    (op : DigitRange → State → State) : onRange m op s = .next (op rg s) := by
  simp [onRange, h]

theorem onRange_none {m : BitVec 4} (h : s.cfg.range m = none) (op : DigitRange → State → State) :
    onRange m op s = .next s := by
  simp [onRange, h]

theorem onRange_cases (m : BitVec 4) (op : DigitRange → State → State) :
    (s.cfg.range m = none ∧ onRange m op s = .next s) ∨
      ∃ rg, s.cfg.range m = some rg ∧ onRange m op s = .next (op rg s) := by
  cases h : s.cfg.range m with
  | none => exact .inl ⟨rfl, onRange_none s h op⟩
  | some rg => exact .inr ⟨rg, rfl, onRange_some s h op⟩

end Sys2Proof.Machine
end

