-- ==== Sys2Proof/Laws/Alu.lean ====
section
/-! SUPPORT. For each primitive of the digit arithmetic unit, what it leaves in the registers, COND, R5 and the rest of
the state, said once. -/

namespace Sys2Proof.Machine

variable (s : State)

/-! ### The ripple: Add and Subtract -/

section ripple

variable (f : Digit → Digit → Bool → Digit × Bool) (left right : Reg) (rg : DigitRange)

theorem carryInto_zero (lo : Nat) : carryInto f left right lo 0 = false := rfl

theorem carryInto_succ (lo n : Nat) :
    carryInto f left right lo (n + 1) =
      (f (left.digit (lo + n)) (right.digit (lo + n)) (carryInto f left right lo n)).2 := rfl

/-- A digit of the scratch inside the range. -/
theorem rippleDigits_digit {i : Nat} (hlo : rg.lo.val ≤ i) (hhi : i ≤ rg.hi.val) :
    (rippleDigits f left right rg).digit i =
      (f (left.digit i) (right.digit i) (carryInto f left right rg.lo.val (i - rg.lo.val))).1 := by
  have hi : i < 16 := by have := rg.hi.isLt; omega
  simp [rippleDigits, Reg.digit_ofFn _ hi, hlo, hhi]

theorem opRipple_reg (dest : Option RegName) (q : RegName) :
    (opRipple f dest left right rg s).reg q = (s.writeRange dest rg (rippleDigits f left right rg)).reg q := by
  simp [opRipple]

theorem opRipple_cond (dest : Option RegName) :
    (opRipple f dest left right rg s).cond = (s.cond || rippleOut f left right rg) := by
  simp [opRipple]

theorem opRipple_r5 (dest : Option RegName) :
    (opRipple f dest left right rg s).r5 = refreshValue (rippleDigits f left right rg) rg := by
  simp [opRipple]

theorem opRipple_keeps (dest : Option RegName) : KeepsAllButRegsCondR5 s (opRipple f dest left right rg s) := by
  constructor <;> simp [opRipple]

end ripple

/-- One digit of an add, as the formula of 40 R101 on numbers. -/
theorem addDigit_spec (base : Nat) (x y : Digit) (carry : Bool) :
    addDigit base x y carry =
      if base ≤ x.toNat + y.toNat + carry.toNat then
        (BitVec.ofNat 4 (x.toNat + y.toNat + carry.toNat - base), true)
      else (BitVec.ofNat 4 (x.toNat + y.toNat + carry.toNat), false) := rfl

/-- One digit of a subtract, as the formula of 40 R102 on numbers. -/
theorem subDigit_spec (base : Nat) (x y : Digit) (borrow : Bool) :
    subDigit base x y borrow =
      if (x.toNat : Int) - y.toNat - borrow.toNat < 0 then
        (BitVec.ofInt 4 ((x.toNat : Int) - y.toNat - borrow.toNat + base), true)
      else (BitVec.ofInt 4 ((x.toNat : Int) - y.toNat - borrow.toNat), false) := rfl

/-! ### Shifts, exchange, store -/

section moves

variable (rg : DigitRange)

theorem shiftedLeft_digit (src : Reg) {i : Nat} (hi : i < 16) :
    (shiftedLeft src rg).digit i = if rg.lo.val < i ∧ i ≤ rg.hi.val then src.digit (i - 1) else 0 :=
  Reg.digit_ofFn _ hi

theorem shiftedRight_digit (src : Reg) {i : Nat} (hi : i < 16) :
    (shiftedRight src rg).digit i = if rg.lo.val ≤ i ∧ i < rg.hi.val then src.digit (i + 1) else 0 :=
  Reg.digit_ofFn _ hi

/-- A write of a scratch register followed by the refresh from it: what shifts and store share. -/
theorem writeRefresh_keeps (dest : Option RegName) (t r : Reg) :
    KeepsAllButRegsCondR5 s ((s.writeRange dest rg t).refreshR5 r rg) := by
  constructor <;> simp

theorem writeRefresh_reg (dest : Option RegName) (t r : Reg) (q : RegName) :
    ((s.writeRange dest rg t).refreshR5 r rg).reg q = (s.writeRange dest rg t).reg q := by
  simp

theorem opExchange_reg_right (left right : RegName) :
    (opExchange left right rg s).reg right = Reg.splice rg (s.reg left) (s.reg right) := by
  by_cases h : left = right
  · subst h
    simp [opExchange, State.writeRange_reg, Reg.splice_self]
  · simp [opExchange, State.writeRange_reg, h]

theorem opExchange_reg_left (left right : RegName) :
    (opExchange left right rg s).reg left = Reg.splice rg (s.reg right) (s.reg left) := by
  by_cases h : left = right
  · subst h
    simp [opExchange, State.writeRange_reg, Reg.splice_self]
  · simp [opExchange, State.writeRange_reg, Ne.symm h]

theorem opExchange_reg_other {left right q : RegName} (hl : q ≠ left) (hr : q ≠ right) :
    (opExchange left right rg s).reg q = s.reg q := by
  simp [opExchange, State.writeRange_reg, Ne.symm hl, Ne.symm hr]

/-- R5 is refreshed from the right register after the swap (40 R107). -/
theorem opExchange_r5 (left right : RegName) :
    (opExchange left right rg s).r5 = refreshValue ((opExchange left right rg s).reg right) rg := by
  simp [opExchange]

theorem opExchange_cond (left right : RegName) : (opExchange left right rg s).cond = s.cond := by
  simp [opExchange]

theorem opExchange_keeps (left right : RegName) : KeepsAllButRegsCondR5 s (opExchange left right rg s) := by
  constructor <;> simp [opExchange]

end moves

end Sys2Proof.Machine
end

