-- ==== Sys2Proof/Laws/Memory.lean ====
section
/-! SUPPORT. The ROM list: every operation keeps its canonical form, a read after a write gives the word written, and a
write leaves every other address alone. -/

namespace Sys2Proof.Machine

/-- The canonical form, as two facts about the list. -/
theorem Memory.wf_iff (m : Memory) :
    m.wf = true ↔ m.Pairwise (fun p q => p.1 < q.1) ∧ ∀ p ∈ m, p.1 < 2048 := by
  simp [Memory.wf]

theorem Memory.wf_reset : State.reset.rom.wf = true := rfl

/-- The keys of the list after an insertion. -/
theorem Memory.mem_insert {n : Nat} {w : RomWord} {m : Memory} {p : Nat × RomWord}
    (h : p ∈ Memory.insert n w m) : p = (n, w) ∨ p ∈ m := by
  induction m with
  | nil => simpa [Memory.insert] using h
  | cons q rest ih =>
    obtain ⟨k, v⟩ := q
    simp only [Memory.insert] at h
    split at h
    · simpa using h
    · split at h
      · rcases List.mem_cons.mp h with h | h
        · exact .inl h
        · exact .inr (List.mem_cons_of_mem _ h)
      · rcases List.mem_cons.mp h with h | h
        · exact .inr (h ▸ List.mem_cons_self)
        · exact (ih h).imp id (List.mem_cons_of_mem _)

theorem Memory.pairwise_insert (n : Nat) (w : RomWord) {m : Memory}
    (h : m.Pairwise fun p q => p.1 < q.1) : (Memory.insert n w m).Pairwise fun p q => p.1 < q.1 := by
  induction m with
  | nil => simp [Memory.insert]
  | cons q rest ih =>
    obtain ⟨k, v⟩ := q
    obtain ⟨hk, hrest⟩ := List.pairwise_cons.mp h
    simp only [Memory.insert]
    split
    · refine List.pairwise_cons.mpr ⟨fun p hp => ?_, h⟩
      rcases List.mem_cons.mp hp with rfl | hp
      · assumption
      · have := hk p hp
        simp only at this ⊢
        omega
    · split
      · subst_vars
        exact List.pairwise_cons.mpr ⟨hk, hrest⟩
      · refine List.pairwise_cons.mpr ⟨fun p hp => ?_, ih hrest⟩
        rcases Memory.mem_insert hp with rfl | hp
        · simp only
          omega
        · exact hk p hp

/-- Supplying a word keeps the canonical form. -/
theorem Memory.wf_write {m : Memory} (h : m.wf = true) (addr : Addr) (w : RomWord) : (m.write addr w).wf = true := by
  obtain ⟨hs, hb⟩ := (Memory.wf_iff m).mp h
  refine (Memory.wf_iff _).mpr ⟨Memory.pairwise_insert _ _ hs, fun p hp => ?_⟩
  rcases Memory.mem_insert hp with rfl | hp
  · exact addr.isLt
  · exact hb p hp

theorem Memory.lookup_insert_same (n : Nat) (w : RomWord) (m : Memory) :
    (Memory.insert n w m).lookup n = some w := by
  induction m with
  | nil => simp [Memory.insert]
  | cons q rest ih =>
    obtain ⟨k, v⟩ := q
    simp only [Memory.insert]
    split
    · simp
    · split
      · simp
      · have hne : (n == k) = false := by simpa using ‹¬n = k›
        simpa [List.lookup_cons, hne] using ih

theorem Memory.lookup_insert_other {n k : Nat} (hne : k ≠ n) (w : RomWord) (m : Memory) :
    (Memory.insert n w m).lookup k = m.lookup k := by
  have hb : (k == n) = false := by simpa using hne
  induction m with
  | nil => simp [Memory.insert, List.lookup_cons, hb]
  | cons q rest ih =>
    obtain ⟨j, v⟩ := q
    simp only [Memory.insert]
    split
    · simp [List.lookup_cons, hb]
    · split
      · subst_vars
        simp [List.lookup_cons, hb]
      · cases hkj : k == j <;> simp [List.lookup_cons, hkj, ih]

/-- A read after a write to the same address gives the word written. -/
theorem Memory.read_write_same (m : Memory) (addr : Addr) (w : RomWord) : (m.write addr w).read addr = some w :=
  Memory.lookup_insert_same _ _ _

/-- A write leaves every other address alone. -/
theorem Memory.read_write_other (m : Memory) {addr other : Addr} (hne : other ≠ addr) (w : RomWord) :
    (m.write addr w).read other = m.read other :=
  Memory.lookup_insert_other (fun h => hne (BitVec.eq_of_toNat_eq h)) _ _

/-- The keys of a loaded image count up from its first address. -/
theorem romOfImage_keys (image : List RomWord) (n : Nat) :
    ∀ p ∈ romOfImage n image, n ≤ p.1 ∧ p.1 < n + image.length := by
  induction image generalizing n with
  | nil => simp [romOfImage]
  | cons w rest ih =>
    intro p hp
    rcases List.mem_cons.mp hp with rfl | hp
    · simp
    · have := ih (n + 1) p hp
      simp only [List.length_cons]
      omega

/-- Loading an image makes a list in canonical form. -/
theorem romOfImage_pairwise (image : List RomWord) (n : Nat) :
    (romOfImage n image).Pairwise fun p q => p.1 < q.1 := by
  induction image generalizing n with
  | nil => simp [romOfImage]
  | cons w rest ih =>
    refine List.pairwise_cons.mpr ⟨fun p hp => ?_, ih (n + 1)⟩
    have := romOfImage_keys rest (n + 1) p hp
    simp only
    omega

theorem romOfImage_wf {image : List RomWord} (h : image.length ≤ 2048) : (romOfImage 0 image).wf = true := by
  refine (Memory.wf_iff _).mpr ⟨romOfImage_pairwise image 0, fun p hp => ?_⟩
  have := romOfImage_keys image 0 p hp
  omega

/-- What a loaded image lists for a key. -/
theorem romOfImage_lookup (image : List RomWord) (n k : Nat) :
    (romOfImage n image).lookup (n + k) = image[k]? := by
  induction image generalizing n k with
  | nil => simp [romOfImage]
  | cons w rest ih =>
    cases k with
    | zero => simp [romOfImage]
    | succ k =>
      have hne : (n + (k + 1) == n) = false := by simp
      have := ih (n + 1) k
      rw [show n + 1 + k = n + (k + 1) by omega] at this
      simpa [romOfImage, List.lookup_cons, hne] using this

/-- The host's supply of one word keeps the canonical form and is what the next fetch reads. -/
theorem withFetchWord_wf {s : State} (h : s.rom.wf = true) (nbits w : Nat) :
    (s.withFetchWord nbits w).rom.wf = true :=
  Memory.wf_write h _ _

theorem fetch_withFetchWord (s : State) (nbits w : Nat) :
    fetch (s.withFetchWord nbits w) = some (BitVec.ofNat 16 (w % 2 ^ nbits)) :=
  Memory.read_write_same _ _ _

end Sys2Proof.Machine
end

