-- ==== Sys2Proof/Laws/PerInstr.lean ====
section
/-! SUPPORT. A law about every instruction as syntax: under the default configuration, the word of a well-formed
instruction carries the fixed bits of a row of spec/opcode_table.json with its mnemonic. -/

namespace Sys2Proof.Laws

/-- The rows of spec/opcode_table.json with the instruction's mnemonic, each as (match, mask). -/
def tableRows : Instr → List (RomWord × RomWord)
  | .nopOor _ => [(0x2000, 0x2000), (0x4000, 0x4000), (0x8000, 0x8000)]
  | .br0 _ => [(0x1800, 0xFC00)]
  | .br1 _ => [(0x1C00, 0xFC00)]
  | .call _ => [(0x1000, 0xF800)]
  | .ytoa _ => [(0x0E00, 0xFF0F)]
  | .rabi _ _ => [(0x0E01, 0xFF0F)]
  | .jmpR5 _ => [(0x0E02, 0xFF0F)]
  | .ret _ => [(0x0E03, 0xFF0F)]
  | .atox _ => [(0x0E04, 0xFF0F)]
  | .xtoa _ => [(0x0E05, 0xFF0F)]
  | .atoy _ => [(0x0E06, 0xFF0F)]
  | .disp _ => [(0x0E07, 0xFF0F)]
  | .dec _ => [(0x0E08, 0xFF0F)]
  | .hex _ => [(0x0E09, 0xFF0F)]
  | .rabR5 _ => [(0x0E0A, 0xFF0F)]
  | .miscRsv _ _ => [(0x0E0B, 0xFF0F), (0x0E0C, 0xFF0C)]
  | .setf _ _ _ => [(0x0C00, 0xFF03)]
  | .clrf _ _ _ => [(0x0C01, 0xFF03)]
  | .tstf _ _ _ => [(0x0C02, 0xFF03)]
  | .tglf _ _ _ => [(0x0C03, 0xFF03)]
  | .nopM _ _ => [(0x0D00, 0xFF00), (0x0F00, 0xFF00)]
  | .maskRsv _ _ _ _ _ => [(0x0038, 0xF038), (0x0032, 0xF03E), (0x0036, 0xF03E), (0x0022, 0xF036), (0x0026, 0xF037)]
  | .shl _ _ => [(0x0030, 0xF03F)]
  | .shr _ _ => [(0x0031, 0xF03F)]
  | .shln _ _ => [(0x0034, 0xF03F)]
  | .shrn _ _ => [(0x0035, 0xF03F)]
  | .addj _ _ _ => [(0x0000, 0xF007)]
  | .subj _ _ _ => [(0x0001, 0xF007)]
  | .addk _ _ _ => [(0x0002, 0xF007)]
  | .subk _ _ _ => [(0x0003, 0xF007)]
  | .addn _ _ _ => [(0x0004, 0xF007)]
  | .subn _ _ _ => [(0x0005, 0xF007)]
  | .exch _ _ _ => [(0x0006, 0xF007)]
  | .stor _ _ _ => [(0x0007, 0xF007)]

/-- The word matches a row: `word & mask = match`. -/
def RowPattern.Statement (i : Instr) : Prop :=
  i.wellFormed defaultConfig = true → ∃ row ∈ tableRows i, encode defaultConfig i &&& row.2 = row.1

namespace RowPattern

/-- One bit of a word as its row asks for it. -/
theorem and_twoPow_of_bit {w : RomWord} {n : Nat} (h : w.getLsbD n = true) :
    w &&& BitVec.twoPow 16 n = BitVec.twoPow 16 n := by
  ext k hk
  simp only [BitVec.getElem_and, BitVec.getElem_twoPow, Bool.and_eq_right_iff_imp, decide_eq_true_eq]
  rintro rfl
  simpa [BitVec.getLsbD_eq_getElem hk] using h

theorem nopOor (w : RomWord) : Statement (.nopOor w) := by
  intro h
  have hw : 8191 < w.toNat := by simpa [Instr.wellFormed, BitVec.lt_def] using h
  have hbit : w.getLsbD 13 = true ∨ w.getLsbD 14 = true ∨ w.getLsbD 15 = true := by
    by_contra hno
    have hlt : w.toNat < 2 ^ 13 := by
      refine Nat.lt_pow_two_of_testBit _ fun i hi => ?_
      have h16 : 16 ≤ i → w.getLsbD i = false := BitVec.getLsbD_of_ge w i
      rw [BitVec.testBit_toNat]
      rcases (by omega : i = 13 ∨ i = 14 ∨ i = 15 ∨ 16 ≤ i) with rfl | rfl | rfl | h <;> simp_all
    omega
  rcases hbit with h | h | h
  · exact ⟨_, List.mem_cons_self, and_twoPow_of_bit h⟩
  · exact ⟨_, List.mem_cons_of_mem _ List.mem_cons_self, and_twoPow_of_bit h⟩
  · exact ⟨_, List.mem_cons_of_mem _ (List.mem_cons_of_mem _ List.mem_cons_self), and_twoPow_of_bit h⟩

theorem br0 (a : BitVec 10) : Statement (.br0 a) := by
  intro _
  refine ⟨_, List.mem_singleton_self _, ?_⟩
  simp only [encode, branchBits]
  ext i hi
  interval_cases i <;> simp

theorem br1 (a : BitVec 10) : Statement (.br1 a) := by
  intro _
  refine ⟨_, List.mem_singleton_self _, ?_⟩
  simp only [encode, branchBits, branchOnOne]
  ext i hi
  interval_cases i <;> simp

theorem call (a : BitVec 11) : Statement (.call a) := by
  intro _
  refine ⟨_, List.mem_singleton_self _, ?_⟩
  simp only [encode, callBits]
  ext i hi
  interval_cases i <;> simp

theorem ytoa (aux : BitVec 4) : Statement (.ytoa aux) := by
  intro _
  refine ⟨_, List.mem_singleton_self _, ?_⟩
  revert aux
  decide

theorem rabi (op7 : BitVec 1) (n : BitVec 3) : Statement (.rabi op7 n) := by
  intro _
  refine ⟨_, List.mem_singleton_self _, ?_⟩
  revert op7 n
  decide

theorem jmpR5 (aux : BitVec 4) : Statement (.jmpR5 aux) := by
  intro _
  refine ⟨_, List.mem_singleton_self _, ?_⟩
  revert aux
  decide

theorem ret (aux : BitVec 4) : Statement (.ret aux) := by
  intro _
  refine ⟨_, List.mem_singleton_self _, ?_⟩
  revert aux
  decide

theorem atox (aux : BitVec 4) : Statement (.atox aux) := by
  intro _
  refine ⟨_, List.mem_singleton_self _, ?_⟩
  revert aux
  decide

theorem xtoa (aux : BitVec 4) : Statement (.xtoa aux) := by
  intro _
  refine ⟨_, List.mem_singleton_self _, ?_⟩
  revert aux
  decide

theorem atoy (aux : BitVec 4) : Statement (.atoy aux) := by
  intro _
  refine ⟨_, List.mem_singleton_self _, ?_⟩
  revert aux
  decide

theorem disp (aux : BitVec 4) : Statement (.disp aux) := by
  intro _
  refine ⟨_, List.mem_singleton_self _, ?_⟩
  revert aux
  decide

theorem dec (aux : BitVec 4) : Statement (.dec aux) := by
  intro _
  refine ⟨_, List.mem_singleton_self _, ?_⟩
  revert aux
  decide

theorem hex (aux : BitVec 4) : Statement (.hex aux) := by
  intro _
  refine ⟨_, List.mem_singleton_self _, ?_⟩
  revert aux
  decide

theorem rabR5 (aux : BitVec 4) : Statement (.rabR5 aux) := by
  intro _
  refine ⟨_, List.mem_singleton_self _, ?_⟩
  revert aux
  decide

theorem miscRsv (aux : BitVec 4) (code : BitVec 4) : Statement (.miscRsv aux code) := by
  unfold Statement
  revert aux code
  decide

theorem setf (r : RegName) (d : BitVec 2) (b : BitVec 2) : Statement (.setf r d b) := by
  intro _
  refine ⟨_, List.mem_singleton_self _, ?_⟩
  cases r <;> revert d b <;> decide

theorem clrf (r : RegName) (d : BitVec 2) (b : BitVec 2) : Statement (.clrf r d b) := by
  intro _
  refine ⟨_, List.mem_singleton_self _, ?_⟩
  cases r <;> revert d b <;> decide

theorem tstf (r : RegName) (d : BitVec 2) (b : BitVec 2) : Statement (.tstf r d b) := by
  intro _
  refine ⟨_, List.mem_singleton_self _, ?_⟩
  cases r <;> revert d b <;> decide

theorem tglf (r : RegName) (d : BitVec 2) (b : BitVec 2) : Statement (.tglf r d b) := by
  intro _
  refine ⟨_, List.mem_singleton_self _, ?_⟩
  cases r <;> revert d b <;> decide

theorem nopM (m : BitVec 4) (rest : BitVec 8) : Statement (.nopM m rest) := by
  intro h
  have hm : m = 0xD ∨ m = 0xF := by
    have hall : ∀ m : BitVec 4, (isMaskClass m && (defaultConfig.range m).isNone) = true → m = 0xD ∨ m = 0xF := by
      decide
    exact hall m h
  have hrest : rest.setWidth 16 &&& 0xFF00#16 = 0 := by
    ext i hi
    interval_cases i <;> simp
  rcases hm with rfl | rfl
  · refine ⟨_, List.mem_cons_self, ?_⟩
    simp only [encode, BitVec.and_or_distrib_right]
    exact congrArg (_ ||| ·) hrest
  · refine ⟨_, List.mem_cons_of_mem _ List.mem_cons_self, ?_⟩
    simp only [encode, BitVec.and_or_distrib_right]
    exact congrArg (_ ||| ·) hrest

theorem maskRsv (m : BitVec 4) (j : RegName) (k : BitVec 3) (l : BitVec 2) (n : BitVec 1) : Statement (.maskRsv m j k l n) := by
  unfold Statement
  cases j <;> revert m k l n <;> decide

theorem shl (m : BitVec 4) (j : RegName) : Statement (.shl m j) := by
  intro _
  refine ⟨_, List.mem_singleton_self _, ?_⟩
  cases j <;> revert m <;> decide

theorem shr (m : BitVec 4) (j : RegName) : Statement (.shr m j) := by
  intro _
  refine ⟨_, List.mem_singleton_self _, ?_⟩
  cases j <;> revert m <;> decide

theorem shln (m : BitVec 4) (j : RegName) : Statement (.shln m j) := by
  intro _
  refine ⟨_, List.mem_singleton_self _, ?_⟩
  cases j <;> revert m <;> decide

theorem shrn (m : BitVec 4) (j : RegName) : Statement (.shrn m j) := by
  intro _
  refine ⟨_, List.mem_singleton_self _, ?_⟩
  cases j <;> revert m <;> decide

theorem addj (m : BitVec 4) (j : RegName) (k : Operand) : Statement (.addj m j k) := by
  intro _
  refine ⟨_, List.mem_singleton_self _, ?_⟩
  cases j <;> rcases k with k | _ | _ <;> try cases k
  all_goals revert m; decide

theorem subj (m : BitVec 4) (j : RegName) (k : Operand) : Statement (.subj m j k) := by
  intro _
  refine ⟨_, List.mem_singleton_self _, ?_⟩
  cases j <;> rcases k with k | _ | _ <;> try cases k
  all_goals revert m; decide

theorem addk (m : BitVec 4) (j : RegName) (k : RegName) : Statement (.addk m j k) := by
  intro _
  refine ⟨_, List.mem_singleton_self _, ?_⟩
  cases j <;> cases k <;> revert m <;> decide

theorem subk (m : BitVec 4) (j : RegName) (k : RegName) : Statement (.subk m j k) := by
  intro _
  refine ⟨_, List.mem_singleton_self _, ?_⟩
  cases j <;> cases k <;> revert m <;> decide

theorem addn (m : BitVec 4) (j : RegName) (k : Operand) : Statement (.addn m j k) := by
  intro _
  refine ⟨_, List.mem_singleton_self _, ?_⟩
  cases j <;> rcases k with k | _ | _ <;> try cases k
  all_goals revert m; decide

theorem subn (m : BitVec 4) (j : RegName) (k : Operand) : Statement (.subn m j k) := by
  intro _
  refine ⟨_, List.mem_singleton_self _, ?_⟩
  cases j <;> rcases k with k | _ | _ <;> try cases k
  all_goals revert m; decide

theorem exch (m : BitVec 4) (j : RegName) (k : RegName) : Statement (.exch m j k) := by
  intro _
  refine ⟨_, List.mem_singleton_self _, ?_⟩
  cases j <;> cases k <;> revert m <;> decide

theorem stor (m : BitVec 4) (j : RegName) (k : Operand) : Statement (.stor m j k) := by
  intro _
  refine ⟨_, List.mem_singleton_self _, ?_⟩
  cases j <;> rcases k with k | _ | _ <;> try cases k
  all_goals revert m; decide

end RowPattern

end Sys2Proof.Laws
end

