-- ==== Sys2Proof/Laws/Polling.lean ====
section
/-! SUPPORT. Idle polling (spec 46 R228): the kind of the window, the rule by which the claim is proved of a ROM, and the
bound on the values of pc. -/

namespace Sys2Proof.Machine

variable {s : State} {w : Window}

/-- A poll for key press is decided by a KEY_PRESS entry of the list of windows. -/
theorem PollsForKeyPress.window (h : PollsForKeyPress s w) : w.kind = .keyPress ∧ w ∈ s.cfg.windows := by
  obtain ⟨hact, hw, -⟩ := h
  refine ⟨?_, List.mem_of_find?_eq_some hw⟩
  simp only [activity, hw] at hact
  cases hk : w.kind <;> simp_all [activityOf]

/-- A property that keeps pc in the window and that every step both completes under and keeps gives idle polling. -/
theorem pollsWithin_of_invariant {P : State → Prop} (hs : P s)
    (hP : ∀ s, P s → w.contains s.pc = true ∧ ∃ t, step s = .next t ∧ P t) : PollsWithin s w := by
  intro k
  induction k generalizing s with
  | zero => exact ⟨s, rfl, (hP s hs).1⟩
  | succ k ih =>
    obtain ⟨-, t, ht, hPt⟩ := hP s hs
    obtain ⟨u, hu, hpc⟩ := ih hPt
    refine ⟨u, ?_, hpc⟩
    have hstep : Sys2Proof.core.step s = .next t := ht
    simp only [Host.Core.run, hstep]
    exact hu

/-- Idle polling has a bounded number of distinct pc values: at most as many as the window has addresses. -/
theorem PollsWithin.pc_mem (h : PollsWithin s w) :
    ∃ pcs : List Addr, pcs.length = w.hi.toNat + 1 - w.lo.toNat ∧
      ∀ k t, Sys2Proof.core.run k s = .next t → t.pc ∈ pcs := by
  refine ⟨(List.range (w.hi.toNat + 1 - w.lo.toNat)).map fun i => BitVec.ofNat 11 (w.lo.toNat + i), by simp, ?_⟩
  intro k t ht
  obtain ⟨u, hu, hpc⟩ := h k
  obtain rfl : u = t := by simpa [hu] using ht
  simp only [Window.contains, Bool.and_eq_true, decide_eq_true_eq, BitVec.le_def] at hpc
  refine List.mem_map.2 ⟨u.pc.toNat - w.lo.toNat, by simp; omega, ?_⟩
  rw [Nat.add_sub_cancel' hpc.1, BitVec.ofNat_toNat, BitVec.setWidth_eq]

end Sys2Proof.Machine
end

