-- ==== Sys2Proof/Tests/Slice0.lean ====
section
/-! SUPPORT. The model's own tests. Expected results are the spec's: the vectors V1 to V104 of 95_test_vectors.md and
the examples of the rules, named beside each test. Witnesses for the statements' hypotheses stand at the end. -/

namespace Sys2Proof.Tests

open Sys2Proof.Machine

/-! ### WellFormed refuses ill-formed terms (30 R88 to R93) -/

theorem test_illFormed_nopOor : (Instr.nopOor 0x1FFF).wellFormed defaultConfig = false := by decide
theorem test_illFormed_misc :
    (Instr.rabi 0 3).wellFormed { defaultConfig with miscMap := Vector.replicate 16 none } = false := by decide
theorem test_illFormed_miscRsv : (Instr.miscRsv 0 0xA).wellFormed defaultConfig = false := by decide
theorem test_illFormed_nopM_valid : (Instr.nopM 0xB 0).wellFormed defaultConfig = false := by decide
theorem test_illFormed_nopM_class : (Instr.nopM 0xC 0).wellFormed defaultConfig = false := by decide
theorem test_illFormed_maskRsv : (Instr.maskRsv 0 .A 4 3 1).wellFormed defaultConfig = false := by decide
theorem test_illFormed_range : (Instr.addj 0xD .A .one).wellFormed defaultConfig = false := by decide
theorem test_illFormed_flagClass : (Instr.shl 0xC .A).wellFormed defaultConfig = false := by decide

/-! ### Decoding: each constructor's word, written from 30 R83 to R87 -/

theorem test_decode_nopOor : decode defaultConfig 0b0010111000000111 = .nopOor 0x2E07 := by decide
theorem test_decode_br0 : decode defaultConfig 0b0001100000010000 = .br0 0x010 := by decide
theorem test_decode_br1 : decode defaultConfig 0b0001110100100011 = .br1 0x123 := by decide
theorem test_decode_call : decode defaultConfig 0b0001010001010110 = .call 0x456 := by decide
theorem test_decode_ytoa : decode defaultConfig 0b0000111000000000 = .ytoa 0 := by decide
theorem test_decode_rabi : decode defaultConfig 0b0000111011010001 = .rabi 1 5 := by decide
theorem test_decode_jmpR5 : decode defaultConfig 0b0000111000000010 = .jmpR5 0 := by decide
theorem test_decode_ret : decode defaultConfig 0b0000111000000011 = .ret 0 := by decide
theorem test_decode_atox : decode defaultConfig 0b0000111000000100 = .atox 0 := by decide
theorem test_decode_xtoa : decode defaultConfig 0b0000111000000101 = .xtoa 0 := by decide
theorem test_decode_atoy : decode defaultConfig 0b0000111000000110 = .atoy 0 := by decide
theorem test_decode_disp : decode defaultConfig 0b0000111000010111 = .disp 1 := by decide
theorem test_decode_dec : decode defaultConfig 0b0000111000001000 = .dec 0 := by decide
theorem test_decode_hex : decode defaultConfig 0b0000111000001001 = .hex 0 := by decide
theorem test_decode_rabR5 : decode defaultConfig 0b0000111000001010 = .rabR5 0 := by decide
theorem test_decode_miscRsv : decode defaultConfig 0b0000111000011100 = .miscRsv 1 0xC := by decide
theorem test_decode_setf : decode defaultConfig 0b0000110010110000 = .setf .C 3 0 := by decide
theorem test_decode_clrf : decode defaultConfig 0b0000110001011101 = .clrf .B 1 3 := by decide
theorem test_decode_tstf : decode defaultConfig 0b0000110000001010 = .tstf .A 0 2 := by decide
theorem test_decode_tglf : decode defaultConfig 0b0000110011100111 = .tglf .D 2 1 := by decide
theorem test_decode_nopM : decode defaultConfig 0b0000111100000111 = .nopM 0xF 0x07 := by decide
theorem test_decode_maskRsv : decode defaultConfig 0b0000000000100110 = .maskRsv 0 .A 4 3 0 := by decide
theorem test_decode_shl : decode defaultConfig 0b0000010000110000 = .shl 4 .A := by decide
theorem test_decode_shr : decode defaultConfig 0b0000010001110001 = .shr 4 .B := by decide
theorem test_decode_shln : decode defaultConfig 0b0000010010110100 = .shln 4 .C := by decide
theorem test_decode_shrn : decode defaultConfig 0b0000010011110101 = .shrn 4 .D := by decide
theorem test_decode_addj : decode defaultConfig 0b0000011100100000 = .addj 7 .A .one := by decide
theorem test_decode_subj : decode defaultConfig 0b0000001000001001 = .subj 2 .A (.reg .B) := by decide
theorem test_decode_addk : decode defaultConfig 0b0000000000001010 = .addk 0 .A .B := by decide
theorem test_decode_subk : decode defaultConfig 0b0000101101010011 = .subk 0xB .B .C := by decide
theorem test_decode_addn : decode defaultConfig 0b0000001000001100 = .addn 2 .A (.reg .B) := by decide
theorem test_decode_subn : decode defaultConfig 0b0000001011101101 = .subn 2 .D .r5 := by decide
theorem test_decode_exch : decode defaultConfig 0b0000001000001110 = .exch 2 .A .B := by decide
theorem test_decode_stor : decode defaultConfig 0b0000001000101111 = .stor 2 .A .r5 := by decide

/-- A number that is no 16-bit word is rejected by name (D1). -/
theorem test_decode_wide : decodeNat defaultConfig 0x10000 = .error (.wordTooWide 0x10000) := by decide

/-! ### One step of each instruction -/

/-- The word runs at pc: `f` of the state after it, `none` where the step stops. -/
def after {α : Type} (w : Nat) (s : State) (f : State → α) : Option α :=
  match step (s.withFetchWord 16 w) with
  | .next t => some (f t)
  | .fault _ => none
  | .refused _ => none

/-- Why the word is refused, if it is. -/
def refusal (w : Nat) (s : State) : Option Refusal :=
  match step (s.withFetchWord 16 w) with
  | .next _ => none
  | .fault _ => none
  | .refused r => some r

/-- The reset state with values in A and B. -/
def withAB (a b : Nat) : State := { State.reset with a := Reg.ofNat a, b := Reg.ofNat b }

/-- A register as a number, for reading a result. -/
abbrev is (r : Reg) (n : Nat) : Bool := r == Reg.ofNat n

/-- V73. -/
theorem test_nopOor : after 0x2000 State.reset (·.pc) = some 1 := by decide
/-- V44: the page of the incremented pc. -/
theorem test_br0 : after 0x1805 { State.reset with pc := 0x3FF } (·.pc) = some 0x405 := by decide
/-- V45: the increment wraps before the branch. -/
theorem test_br0_wrap : after 0x1BFF { State.reset with pc := 0x7FF } (·.pc) = some 0x3FF := by decide
/-- V43: not taken, COND cleared. -/
theorem test_br0_not_taken :
    after 0x1810 { State.reset with pc := 0x400, cond := true } (fun t => (t.pc, t.cond)) = some (0x401, false) := by
  decide
/-- V42. -/
theorem test_br1 :
    after 0x1D23 { State.reset with pc := 5, cond := true } (fun t => (t.pc, t.cond)) = some (0x123, false) := by decide
/-- V47. -/
theorem test_call :
    after 0x1456 { State.reset with pc := 0x10, s0 := 0x111, s1 := 0x222, s2 := 0x333 }
      (fun t => (t.pc, t.s0, t.s1, t.s2)) = some (0x456, 0x011, 0x111, 0x222) := by decide
/-- V50. -/
theorem test_ytoa :
    after 0x0E00 { State.reset with rab := 2, y := State.reset.y.set 2 (Reg.ofNat 0xAB) } (is ·.a 0xAB) = some true := by
  decide
/-- V52: op[7] is ignored. -/
theorem test_rabi : after 0x0ED1 State.reset (·.rab) = some 5 := by decide
/-- V53: COND is unchanged. -/
theorem test_jmpR5 :
    after 0x0E02 { State.reset with r5 := 0xA7, cond := true } (fun t => (t.pc, t.cond)) = some (0x0A7, true) := by
  decide
/-- V54. -/
theorem test_ret :
    after 0x0E03 { State.reset with s0 := 0x11, s1 := 0x22, s2 := 0x33, cond := true }
      (fun t => (t.pc, t.s0, t.s1, t.s2, t.cond)) = some (0x11, 0x22, 0x33, 0x33, false) := by decide
/-- V56. -/
theorem test_atox :
    after 0x0E04 { withAB 0x123 0 with rab := 2 } (fun t => is (t.x.get 2) 0x123 && is (t.x.get 3) 0) = some true := by
  decide
/-- V57. -/
theorem test_xtoa :
    after 0x0E05 { State.reset with rab := 2, x := State.reset.x.set 2 (Reg.ofNat 0x9000000000000001) }
      (is ·.a 0x9000000000000001) = some true := by decide
/-- V58. -/
theorem test_atoy : after 0x0E06 { withAB 0xFF 0 with rab := 7 } (fun t => is (t.y.get 7) 0xFF) = some true := by decide
/-- V59: no key. -/
theorem test_disp :
    after 0x0E07 { withAB 5 6 with r5 := 0x11 }
      (fun t => is t.dA 5 && is t.dB 6 && t.displayValid && t.r5 == 0x11 && !t.cond) = some true := by decide
/-- V63: key at row 7, column 4, aux ignored. -/
theorem test_disp_key :
    after 0x0E17 { State.reset with keyPressed := true, keyRow := 7, keyCol := 4 }
      (fun t => (t.r5, t.cond, t.keyPressed)) = some (0x74, true, true) := by decide
/-- V64 and V67: the increment wraps. -/
theorem test_dec :
    after 0x0E08 { State.reset with isHex := true, pc := 0x7FF } (fun t => (t.isHex, t.pc)) = some (false, 0) := by decide
/-- V65. -/
theorem test_hex : after 0x0E09 State.reset (·.isHex) = some true := by decide
/-- V66. -/
theorem test_rabR5 : after 0x0E0A { State.reset with r5 := 0x4E } (·.rab) = some 6 := by decide
/-- V79b: refused, with the address and the word. -/
theorem test_miscRsv : refusal 0x0E1C { State.reset with pc := 7 } = some (.reservedMisc 7 0x0E1C) := by decide
/-- V79d: a no-op under reserved_as_nop. -/
theorem test_miscRsv_nop :
    after 0x0E0F { State.reset with cfg := { defaultConfig with reservedAsNop := true } } (·.pc) = some 1 := by decide
/-- V70: the mode becomes LRN. -/
theorem test_setf :
    after 0x0CB0 State.reset (fun t => (is t.c 0x1000000000000000, mode t)) = some (true, .lrn) := by decide
/-- V71. -/
theorem test_clrf :
    after 0x0C5D (withAB 0 0x00F0000000000000) (is ·.b 0x0070000000000000) = some true := by decide
/-- V72a. -/
theorem test_tstf : after 0x0C0A (withAB 0x0004000000000000 0) (·.cond) = some true := by decide
/-- V72b: a clear bit leaves COND unchanged. -/
theorem test_tstf_clear : after 0x0C0A (withAB 0x0003000000000000 0) (·.cond) = some false := by decide
/-- V72e. -/
theorem test_tglf :
    after 0x0CFF { State.reset with d := Reg.ofNat 0x8000000000000000 } (is ·.d 0) = some true := by decide
/-- V75. -/
theorem test_nopM :
    after 0x0D00 { withAB 5 0 with cond := true, r5 := 0x33 }
      (fun t => is t.a 5 && t.cond && t.r5 == 0x33 && t.pc == 1) = some true := by decide
/-- V79: refused, with the address and the word. -/
theorem test_maskRsv : refusal 0x0026 { State.reset with pc := 3 } = some (.reservedMask 3 0x0026) := by decide
/-- V79c. -/
theorem test_maskRsv_nop :
    after 0x0038 { State.reset with cfg := { defaultConfig with reservedAsNop := true } } (·.pc) = some 1 := by decide
/-- V32. -/
theorem test_shl :
    after 0x0430 (withAB 0x0007000000123409 0) (fun t => (is t.a 0x0000000001234009, t.r5)) = some (true, 0x40) := by
  decide
/-- V33. -/
theorem test_shr :
    after 0x0431 (withAB 0x0007000000123409 0) (fun t => (is t.a 0x0000700000012309, t.r5)) = some (true, 0x23) := by
  decide
/-- V34. -/
theorem test_shln :
    after 0x0434 (withAB 0x0007000000123409 0) (fun t => (is t.a 0x0007000000123409, t.r5)) = some (true, 0x40) := by
  decide
/-- V35. -/
theorem test_shrn :
    after 0x0435 (withAB 0x0007000000123409 0) (fun t => (is t.a 0x0007000000123409, t.r5)) = some (true, 0x23) := by
  decide
/-- V7: a decimal carry through the mantissa. -/
theorem test_addj :
    after 0x0508 (withAB 0x0999999999999 1) (fun t => (is t.a 0x0001000000000000, t.cond, t.r5)) =
      some (true, false, 0x00) := by decide
/-- V13: digits above 9 in base 10 (40 R113). -/
theorem test_addj_nondecimal :
    after 0x0208 (withAB 0xFF 0xF0) (fun t => (is t.a 0x55, t.cond, t.r5)) = some (true, true, 0x55) := by decide
/-- V17. -/
theorem test_subj :
    after 0x0209 (withAB 0x00 0x01) (fun t => (is t.a 0x99, t.cond, t.r5)) = some (true, true, 0x99) := by decide
/-- V25: 0 - 0xF in base 10 (40 R113). -/
theorem test_subj_nondecimal :
    after 0x0009 (withAB 0 0xF) (fun t => (is t.a 0xB, t.cond)) = some (true, true) := by decide
/-- V14. -/
theorem test_addk :
    after 0x000A (withAB 3 4) (fun t => (is t.a 3, is t.b 7, t.r5)) = some (true, true, 0x07) := by decide
/-- V21. -/
theorem test_subk :
    after 0x000B (withAB 3 4) (fun t => (is t.a 3, is t.b 9, t.cond)) = some (true, true, true) := by decide
/-- V15. -/
theorem test_addn :
    after 0x0224 (withAB 0x99 0) (fun t => (is t.a 0x99, t.cond, t.r5)) = some (true, true, 0x00) := by decide
/-- V24: no borrow leaves COND set. -/
theorem test_subn :
    after 0x020D { withAB 0x26 0x25 with cond := true } (fun t => (is t.a 0x26, t.cond, t.r5)) =
      some (true, true, 0x01) := by decide
/-- V20. -/
theorem test_exch :
    after 0x020E (withAB 0x12 0x34) (fun t => (is t.a 0x34, is t.b 0x12, t.r5)) = some (true, true, 0x12) := by decide
/-- V26: one register as both operands. -/
theorem test_exch_same : after 0x0206 (withAB 0x12 0) (fun t => (is t.a 0x12, t.r5)) = some (true, 0x12) := by decide
/-- V29: the high nibble is lost when hi = lo. -/
theorem test_stor :
    after 0x002F { withAB 0 0 with r5 := 0x47 } (fun t => (is t.a 7, t.r5)) = some (true, 0x07) := by decide
/-- V31: the constant-1 register. -/
theorem test_stor_one : after 0x0227 (withAB 0x55 0) (fun t => (is t.a 0x01, t.r5)) = some (true, 0x01) := by decide

/-! ### Derived outputs, host actions, cost -/

/-- V83: bit 0 wins. -/
theorem test_mode : mode { State.reset with c := Reg.ofNat 0x9000000000000000 } = .lrn := by decide
/-- The windows of V86 to V89. -/
def windowsV86 : Config :=
  { defaultConfig with windows := [⟨.keyPress, 0x100, 0x10F⟩, ⟨.pause, 0x200, 0x20F⟩] }
/-- V87: a stack slot matches. -/
theorem test_activity_slot : activity { State.reset with cfg := windowsV86, pc := 0x50, s1 := 0x203 } = .pause := by decide
/-- V88: the first window in list order wins. -/
theorem test_activity_first :
    activity { State.reset with cfg := windowsV86, pc := 0x105, s0 := 0x205 } = .pollPress := by decide
/-- V89: the blinking variant. -/
theorem test_activity_blink :
    activity { State.reset with
      cfg := { windowsV86 with errorFlag := some ⟨.B, 14, 3⟩ }, pc := 0x105, b := Reg.ofNat 0x0800000000000000 } =
      .pollPressBlink := by decide
/-- V89b: the window contains address 0. -/
theorem test_boot_window_zero : boot { defaultConfig with windows := [⟨.long, 0, 0x10⟩] } [] = .refused .badConfig := by
  simp [boot, Config.Wf, Config.WindowsWf]
/-- V90. -/
theorem test_display_blank : getDisplay State.reset = List.replicate 12 ' ' := by decide
/-- V94. -/
theorem test_keyPress_bad : keyPress 8 0 State.reset = .refused (.badKey 8 0) := rfl
/-- The default KEY_CODE is `(row << 4) or col` (47 R241). -/
theorem test_keyCode : (defaultKeyCode.get 4).get 1 = 0x41 := by decide
/-- V100 to V104. -/
theorem test_cost :
    (cost 0x0E07, cost 0x0F07, cost 0x1E07, cost 0x0C07, cost 0x1C07) = (32, 32, 32, 1, 1) := by decide
/-- A branch the assembler refuses: the target is in the other page (30 R94). -/
theorem test_assemble_page : assembleBranch false 0x3FF 0x010 = none := by decide
/-- The spec's own example of the syntax: `BR1 0x123` (30 R94). -/
theorem test_assemble_branch : assembleBranch true 0x005 0x123 = some (.br1 0x123) := by decide
/-- `NOP` is the word 0x0D00 (30 R95). -/
theorem test_pseudo_nop : Pseudo.nop.expand.map (encode defaultConfig) = [0x0D00] := by decide

/-! ### Witnesses: a concrete state and operands that meet each statement's hypotheses -/

/-- A state with one word at pc. -/
def sampleAt (w : RomWord) : State := { State.reset with rom := [(0, w)] }
/-- The default configuration with reserved words as no-ops. -/
def nopConfig : Config := { defaultConfig with reservedAsNop := true }

theorem witness_DecodeOfEncodeIsIdentity :
    (Instr.maskRsv 0xB .D 5 3 0).wellFormed defaultConfig = true ∧ (Instr.nopOor 0x2000).wellFormed defaultConfig = true ∧
      (Instr.rabi 1 7).wellFormed defaultConfig = true := by decide
theorem witness_EveryWordIsItsInstructionsEncoding :
    (defaultConfig.miscMap.toList.filter Option.isSome).Nodup := by decide
theorem witness_ReservedMaskWordsAreExactlyTheSpecs :
    (0x0BFF : RomWord).toNat < 0x1000 ∧ defaultConfig.hasRange ((0x0BFF : RomWord).extractLsb' 8 4) = true := by decide
theorem witness_StepRunsTheDecodedInstruction :
    fetch (sampleAt 0x0E07) = some 0x0E07 ∧ (Instr.disp 0).wellFormed (sampleAt 0x0E07).cfg = true ∧
      fetch (sampleAt 0x0E07) = some (encode (sampleAt 0x0E07).cfg (.disp 0)) := by decide
theorem witness_FetchOfAnAbsentWordFaults : fetch State.reset = none := by decide
theorem witness_StepRunsExceptOnRefusedWords :
    fetch (sampleAt 0x0038) = some 0x0038 ∧ refusedWord defaultConfig 0x0038 = true ∧
      defaultConfig.reservedAsNop = false := by decide
theorem witness_StepRunsExceptOnRefusedWords_nop :
    fetch { sampleAt 0x0E0F with cfg := nopConfig } = some 0x0E0F ∧ refusedWord nopConfig 0x0E0F = true ∧
      nopConfig.reservedAsNop = true := by decide
theorem witness_StepRunsExceptOnRefusedWords_other :
    fetch (sampleAt 0x0027) = some 0x0027 ∧ refusedWord defaultConfig 0x0027 = false := by decide
theorem witness_OutOfRangeWordOnlyAdvancesPc :
    fetch (sampleAt 0x2000) = some 0x2000 ∧ 0x1FFF < (0x2000 : RomWord).toNat := by decide
theorem witness_InvalidRangeWordOnlyAdvancesPc :
    fetch (sampleAt 0x0DFF) = some 0x0DFF ∧ (0x0DFF : RomWord).toNat < 0x1000 ∧
      isMaskClass ((0x0DFF : RomWord).extractLsb' 8 4) = true ∧
      defaultConfig.range ((0x0DFF : RomWord).extractLsb' 8 4) = none := by decide
theorem witness_InvalidRangeWordOnlyAdvancesPc_cost :
    (0x0FFF : RomWord).toNat / 256 = 0x0F ∧ (0x0FFF : RomWord).toNat % 8 = 7 := by decide
theorem witness_PcOnlyIncrementsOutsideControlTransfers :
    fetch { sampleAt 0x0E08 with rom := [(0x7FF, 0x0E08)], pc := 0x7FF } = some 0x0E08 ∧
      decode defaultConfig 0x0E08 = .dec 0 ∧
      after 0x0E08 { sampleAt 0x0E08 with pc := 0x7FF } (·.pc) = some 0 := by decide
theorem witness_CostFollowsTheLiteralPattern : fetch (sampleAt 0x1FFF) = some 0x1FFF := by decide
/-- A configuration and an image that boot, the default and 2048 words: for NoRunFromBootEverFaults and
BootSuppliesTheWholeRom. -/
theorem witness_boot : defaultConfig.Wf ∧ (List.replicate 2048 (0x0D00 : RomWord)).length = 2048 ∧
    ∃ s, boot defaultConfig (List.replicate 2048 0x0D00) = .next s := by
  exact ⟨by decide, List.length_replicate, _, by simp only [boot, not_true_eq_false, if_false, List.length_replicate, ne_eq]; rfl⟩
theorem witness_StepKeepsTheInvariant :
    (sampleAt 0x0E07).Inv ∧ after 0x0E07 (sampleAt 0x0E07) (·.displayValid) = some true := by decide
theorem witness_RunsKeepTheInvariantAndTheRom :
    (match runTransitions [.keyPress 7 4, .next, .keyRelease, .init] (sampleAt 0x0E07) with
      | .next t => decide (t = sampleAt 0x0E07)
      | _ => false) = true ∧ (sampleAt 0x0E07).Inv := by decide
theorem witness_BootRefusesAWindowOverAddressZero :
    (⟨.long, 0, 0⟩ : Window) ∈ [(⟨.long, 0, 0⟩ : Window)] ∧ (⟨.long, 0, 0⟩ : Window).contains 0 = true := by decide
theorem witness_CondClearedExactlyByBranchCallReturn :
    after 0x1800 { State.reset with cond := true } (·.cond) = some false := by decide
theorem witness_CondRaisedOnlyByArithmeticTestAndDisp :
    after 0x0008 (withAB 9 1) (·.cond) = some true ∧ (withAB 9 1).cond = false := by decide
theorem witness_R5WrittenOnlyByMaskOpsAndDisp : after 0x0027 State.reset (·.r5) = some 1 := by decide
theorem witness_StorageWrittenOnlyThroughRab :
    after 0x0E06 { withAB 1 0 with rab := 7 } (fun t => t.y.get 7 != State.reset.y.get 7) = some true := by decide
theorem witness_SpecialRegistersWrittenOnlyByTheirWriters :
    after 0x17FF State.reset (·.s0) = some 1 ∧ after 0x0E71 State.reset (·.rab) = some 7 ∧
      after 0x0E09 State.reset (·.isHex) = some true ∧ after 0x0E07 State.reset (·.displayValid) = some true := by decide
theorem witness_NoDigitOutsideTheRangeChanges :
    maskOpOf (.addj 4 .A (.reg .B)) = some 4 ∧ defaultConfig.range 4 = some ⟨2, 12⟩ ∧
      after 0x0408 (withAB 0x1111111111111111 0x2222222222222222) (is ·.a 0x1113333333333311) = some true := by decide
theorem witness_KeyLatchIsReadOnlyByDisp :
    (∀ aux, Instr.dec 0 ≠ .disp aux) ∧ State.reset.keyPressed = false := by decide
/-- A BR0 to its own address under a KEY_PRESS window: the premises and the conclusion of 46 R228 hold of it. -/
def pollingLoop : State :=
  { State.reset with
    pc := 0x105, rom := [(0x105, 0x1905)], cfg := { defaultConfig with windows := [⟨.keyPress, 0x100, 0x10F⟩] } }
theorem test_polling_premises : PollsForKeyPress pollingLoop ⟨.keyPress, 0x100, 0x10F⟩ :=
  ⟨.inl (by decide), by decide, rfl⟩
theorem test_polling_conclusion : PollsWithin pollingLoop ⟨.keyPress, 0x100, 0x10F⟩ :=
  pollsWithin_of_invariant (P := (· = pollingLoop)) rfl (by
    rintro _ rfl
    exact ⟨by decide, pollingLoop, rfl, rfl⟩)
/-- For IndirectJumpCompletes, StorageCopiesComplete, RabLoadsComplete, BaseSelectsComplete and
DisplayLatchAndKeyScanComplete. -/
theorem witness_defaultMiscMap : State.reset.cfg.miscMap = defaultMiscMap := by decide
/-- For NoInstructionWritesKeyLatchOrRom and DisplayLatchesAffectNothing: DISP, and an instruction that is not DISP. -/
theorem witness_instructionsComplete :
    after 0x0E07 State.reset (·.displayValid) = some true ∧ after 0x0E09 State.reset (·.isHex) = some true := by decide
theorem witness_RightOperandDigits : 1 < 16 ∧ (1 : Nat) = (0 : Fin 16).val + 1 ∧ (0 : Fin 16) < 15 := by decide
theorem witness_ReturnCompletes :
    State.reset.cfg.miscMap = defaultMiscMap ∧ State.reset.cfg.popFill = .keep ∧
      ({ defaultConfig with popFill := .draw } : Config).popFill = .draw := by decide
theorem witness_BranchPairJumpsUnconditionally :
    after 0x1C03 { State.reset with cond := true } (·.pc) = some 3 ∧ after 0x1C03 State.reset (·.pc) = some 1 := by decide
theorem witness_DisplayLatchAndKeyScanComplete :
    ({ State.reset with keyPressed := true } : State).keyPressed = true ∧ State.reset.keyPressed = false := by decide
theorem witness_ReservedMiscWordsRefuseOrDoNothing :
    defaultConfig.misc 0xB = none ∧ defaultConfig.misc 0xF = none ∧ defaultConfig.misc 0xA ≠ none ∧
      nopConfig.reservedAsNop = true ∧ defaultConfig.reservedAsNop = false := by decide
/-- For AddFamilyCompletes, SubtractFamilyCompletes, ExchangeCompletes, StoreCompletes, LeftShiftsComplete,
RightShiftsComplete and ClearPseudoInstructionClears. -/
theorem witness_MaskFamiliesComplete :
    isMaskClass 4 = true ∧ defaultConfig.range 4 = some ⟨2, 12⟩ ∧ (2 : Fin 16) ≤ 12 ∧
      isMaskClass 9 = true ∧ defaultConfig.range 9 = some ⟨15, 15⟩ ∧
      isMaskClass 0xB = true ∧ defaultConfig.range 0xB = some ⟨0, 15⟩ := by decide
theorem witness_NoOpsComplete :
    defaultConfig.range 0xD = none ∧ maskOpOf (.stor 0xD .A .one) = some 0xD := by decide
theorem witness_ReservedMaskWordsRefuseOrDoNothing :
    isMaskClass 0 = true ∧ defaultConfig.range 0 = some ⟨0, 0⟩ ∧ reservedMask 7 0 0 = true ∧ reservedMask 6 3 1 = true ∧
      reservedMask 5 3 0 = true ∧ reservedMask 5 3 1 = false := by decide
/-- For AddIsAdditionModuloTheRange, SubtractIsSubtractionModuloTheRange and SubtractUndoesAdd: 99 and 01 on the
range of M2. -/
theorem witness_IntegerLaws :
    (0 : Fin 16) ≤ 1 ∧ ValidDigits (State.base State.reset ⟨0, 1⟩) (Reg.ofNat 0x99) ⟨0, 1⟩ ∧
      ValidDigits (State.base State.reset ⟨0, 1⟩) (Reg.ofNat 0x01) ⟨0, 1⟩ := by
  simp only [ValidDigits]
  decide
/-- A carry and a borrow on the same range: 99 + 01 = 100, and 00 - 01 borrows back to 99. -/
theorem witness_SubtractUndoesAdd :
    rippleOut (addDigit 10) (Reg.ofNat 0x99) (Reg.ofNat 0x01) ⟨0, 1⟩ = true ∧
      rippleOut (subDigit 10) (Reg.ofNat 0x00) (Reg.ofNat 0x01) ⟨0, 1⟩ = true := by decide
theorem witness_ActivityIsTheFirstMatchingWindows :
    windowsV86.windows = [⟨.keyPress, 0x100, 0x10F⟩] ++ (⟨.pause, 0x200, 0x20F⟩ : Window) :: [] ∧
      inWindow { State.reset with s2 := 0x20F } ⟨.keyPress, 0x100, 0x10F⟩ = false ∧
      inWindow { State.reset with s2 := 0x20F } ⟨.pause, 0x200, 0x20F⟩ = true := by decide
theorem witness_ErrorFlagReadsItsBit :
    defaultConfig.errorFlag = none ∧
      ({ windowsV86 with errorFlag := some ⟨.B, 14, 3⟩ } : Config).errorFlag = some ⟨.B, 14, 3⟩ := by decide
theorem witness_ModeAndActivityAfterInit : windowsV86.WindowsWf ∧ windowsV86.windows ≠ [] := by decide
theorem witness_KeyActionsLatchOrRefuse :
    keyPress 7 4 State.reset = .next { State.reset with keyRow := 7, keyCol := 4, keyPressed := true } ∧
      (8 ≤ 8 ∨ 5 ≤ 0) ∧ (8 ≤ 0 ∨ 5 ≤ 5) := ⟨rfl, by decide, by decide⟩
theorem witness_DisplayTextIsTwelvePositions : State.reset.displayValid = false := by decide
theorem witness_ReturnStackIsThreeDeep : State.reset.cfg.popFill = .keep := by decide

end Sys2Proof.Tests
end

/-! The digit range of a mask op bounds what it writes (40 R111): each mask instruction runs one of three kinds of
primitive, and none of the three touches a digit outside the range. -/

namespace Sys2Proof

/-- Past the sixteen digits every register reads 0 (log entry 34). -/
theorem Reg.digit_of_ge (r : Reg) {n : Nat} (h : 16 ≤ n) : r.digit n = 0 := by
  simp [Reg.digit, Nat.not_lt.mpr h]

theorem Reg.digit_splice_outside {rg : DigitRange} {n : Nat} (hn : n < rg.lo.val ∨ rg.hi.val < n) (new old : Reg) :
    (Reg.splice rg new old).digit n = old.digit n := by
  by_cases h16 : n < 16
  · rw [Reg.digit_splice rg new old h16, if_neg (by omega)]
  · rw [Reg.digit_of_ge _ (by omega), Reg.digit_of_ge _ (by omega)]

end Sys2Proof

namespace Sys2Proof.Machine

/-- The states a mask instruction can end in on the range `rg`: after a ripple (Add, Subtract), after one range write
and its refresh (shifts, Store), or after an exchange (40 R101 to R108). -/
inductive MaskPrimitiveRan (rg : DigitRange) (s : State) : State → Prop where
  | ripple (f : Digit → Digit → Bool → Digit × Bool) (dest : Option RegName) (left right : Reg) :
      MaskPrimitiveRan rg s (opRipple f dest left right rg s)
  | move (dest : Option RegName) (t r : Reg) : MaskPrimitiveRan rg s ((s.writeRange dest rg t).refreshR5 r rg)
  | exchange (left right : RegName) : MaskPrimitiveRan rg s (opExchange left right rg s)

/-- Every mask instruction is one primitive run on the range M names (45 R193 to R204). -/
theorem exec_eq_onRange_of_maskOpOf {i : Instr} {m : BitVec 4} (hm : maskOpOf i = some m) (s : State) :
    ∃ op, exec i s = onRange m op s ∧ ∀ rg, MaskPrimitiveRan rg s (op rg s) := by
  cases i with
  | addj | addk | addn | subj | subk | subn =>
    cases hm
    simp only [exec, execAddj, execAddk, execAddn, execSubj, execSubk, execSubn]
    exact ⟨_, rfl, fun _ => .ripple ..⟩
  | shl | shr | shln | shrn | stor =>
    cases hm
    simp only [exec, execShl, execShr, execShln, execShrn, execStor]
    exact ⟨_, rfl, fun _ => .move ..⟩
  | exch =>
    cases hm
    simp only [exec, execExch]
    exact ⟨_, rfl, fun _ => .exchange ..⟩
  | _ => cases hm

theorem exec_maskOp_ran {i : Instr} {s t : State} {m : BitVec 4} {rg : DigitRange} (hm : maskOpOf i = some m)
    (hrg : s.cfg.range m = some rg) (h : exec i s = .next t) : MaskPrimitiveRan rg s t := by
  obtain ⟨op, hexec, hran⟩ := exec_eq_onRange_of_maskOpOf hm s
  rw [hexec, onRange_some s hrg op] at h
  cases h
  exact hran rg

theorem State.writeRange_digit_outside {rg : DigitRange} {n : Nat} (hn : n < rg.lo.val ∨ rg.hi.val < n) (s : State)
    (dest : Option RegName) (t : Reg) (q : RegName) :
    ((s.writeRange dest rg t).reg q).digit n = (s.reg q).digit n := by
  rw [State.writeRange_reg]
  split
  · exact Reg.digit_splice_outside hn t (s.reg q)
  · rfl

theorem opExchange_digit_outside {rg : DigitRange} {n : Nat} (hn : n < rg.lo.val ∨ rg.hi.val < n) (s : State)
    (left right q : RegName) : ((opExchange left right rg s).reg q).digit n = (s.reg q).digit n := by
  by_cases hl : q = left
  · rw [hl, opExchange_reg_left, Reg.digit_splice_outside hn]
  by_cases hr : q = right
  · rw [hr, opExchange_reg_right, Reg.digit_splice_outside hn]
  · rw [opExchange_reg_other s rg hl hr]

namespace MaskPrimitiveRan

variable {rg : DigitRange} {s t : State}

theorem keeps (h : MaskPrimitiveRan rg s t) : KeepsAllButRegsCondR5 s t := by
  cases h with
  | ripple f dest left right => exact opRipple_keeps s f left right rg dest
  | move dest u r => exact writeRefresh_keeps s rg dest u r
  | exchange left right => exact opExchange_keeps s rg left right

theorem digit_outside (h : MaskPrimitiveRan rg s t) {n : Nat} (hn : n < rg.lo.val ∨ rg.hi.val < n) (q : RegName) :
    (t.reg q).digit n = (s.reg q).digit n := by
  cases h with
  | ripple f dest left right => rw [opRipple_reg, State.writeRange_digit_outside hn]
  | move dest u r => rw [writeRefresh_reg, State.writeRange_digit_outside hn]
  | exchange left right => exact opExchange_digit_outside hn s left right q

end MaskPrimitiveRan

/-- Settles O24, by the three kinds of primitive a mask instruction can run. -/
theorem noDigitOutsideTheRangeChanges : Obligations.NoDigitOutsideTheRangeChanges := by
  intro i s t m rg hm hrg h
  have hran : MaskPrimitiveRan rg s t := exec_maskOp_ran hm hrg h
  have hkeeps : KeepsAllButRegsCondR5 s t := hran.keeps
  obtain ⟨hdA, hdB, -⟩ := hkeeps.display
  exact ⟨fun r _ hn => hran.digit_outside hn r, hkeeps.x, hkeeps.y, hdA, hdB⟩

end Sys2Proof.Machine

/-! A CALL's word (30 R84) carries its fixed bits and its target apart, so the decoder reads the target back; running it
is one push, one jump and one clear of COND (42 R152). -/

namespace Sys2Proof

/-- 0x1000 plus the target is the word 30 R84 assembles with a bitwise or: the target lies below the fixed bit. -/
theorem callWord_eq_encode (c : Config) (a : BitVec 11) :
    BitVec.ofNat 16 (0x1000 + a.toNat) = encode c (.call a) := by
  have hdisjoint : callBits &&& a.setWidth 16 = 0 := by
    ext i hi
    interval_cases i <;> simp [callBits]
  calc BitVec.ofNat 16 (0x1000 + a.toNat)
      = callBits + a.setWidth 16 := by rw [BitVec.ofNat_add, BitVec.ofNat_toNat]; rfl
    _ = callBits ||| a.setWidth 16 := BitVec.add_eq_or_of_and_eq_zero _ _ hdisjoint

theorem encode_call_le_maxOpcode (c : Config) (a : BitVec 11) : ¬ maxOpcode < encode c (.call a) := by
  have hmax : maxOpcode.toNat = 0x1FFF := rfl
  rw [← callWord_eq_encode, BitVec.lt_def, hmax, BitVec.toNat_ofNat]
  omega

/-- The class test of 30 R81, priority 2, from the row's fixed bits. -/
theorem encode_call_and_controlMask (c : Config) (a : BitVec 11) :
    encode c (.call a) &&& controlMask = callBits := by
  obtain ⟨row, hrow, hbits⟩ := Laws.RowPattern.call a rfl
  obtain rfl := List.mem_singleton.mp hrow
  calc encode c (.call a) &&& controlMask
      = encode c (.call a) &&& 0xF800 &&& controlMask := by rw [BitVec.and_assoc]; rfl
    _ = 0x1000 &&& controlMask := congrArg (· &&& controlMask) hbits
    _ = callBits := rfl

theorem opField_encode_call (c : Config) (a : BitVec 11) : opField (encode c (.call a)) 0 11 = a := by
  ext i hi
  interval_cases i <;> simp [opField, encode, callBits]

/-- Every CALL decodes to itself, whatever the configuration. -/
theorem decode_encode_call (c : Config) (a : BitVec 11) : decode c (encode c (.call a)) = .call a := by
  have hnotBranch : ¬ callBits = branchBits := by decide
  rw [decode, if_neg (encode_call_le_maxOpcode c a), encode_call_and_controlMask, if_neg hnotBranch, if_pos rfl,
    opField_encode_call]

end Sys2Proof

namespace Sys2Proof.Machine

/-- What CALL does to the whole state: the push drops the old S[2], and the pushed pc is the incremented one. -/
theorem exec_call (a : BitVec 11) (s : State) :
    exec (.call a) s = .next { s with s0 := s.pc, s1 := s.s0, s2 := s.s1, pc := a, cond := false } := by
  have harm : exec (.call a) s = execCall a s := rfl
  rw [harm, execCall, State.push_eq, State.clearCond_eq]
  rfl

/-- Settles O28, from the round trip of the CALL word and the meaning of CALL. -/
theorem callCompletes : Obligations.CallCompletes := by
  intro s a
  constructor
  · rw [callWord_eq_encode s.cfg, decode_encode_call]
  · exact exec_call a s

end Sys2Proof.Machine

/-! The mode (46 R220) masks C[15] with 0x1 and 0x8, and each mask is a power of two: what it reads is one bit of the
digit, and that bit is the digit's parity or whether the digit reaches 8. -/

namespace Sys2Proof

/-- Masking with one bit's weight tests that bit. -/
theorem Digit.and_twoPow_ne_zero_iff (d : Digit) (k : Nat) (hk : k < 4) :
    d &&& BitVec.twoPow 4 k ≠ 0 ↔ d.getLsbD k = true := by
  have hweight : BitVec.twoPow 4 k ≠ 0 := by
    interval_cases k <;> decide
  rw [BitVec.and_twoPow]
  split
  case isTrue hset => exact iff_of_true hweight hset
  case isFalse hclear => exact iff_of_false (· rfl) hclear

theorem Digit.and_one_ne_zero_iff (d : Digit) : d &&& 1 ≠ 0 ↔ d.toNat % 2 = 1 := by
  calc d &&& 1 ≠ 0
      ↔ d.getLsbD 0 = true := d.and_twoPow_ne_zero_iff 0 (by decide)
    _ ↔ d.toNat % 2 = 1 := by rw [BitVec.getLsbD, Nat.testBit_zero, decide_eq_true_iff]

theorem Digit.and_eight_ne_zero_iff (d : Digit) : d &&& 8 ≠ 0 ↔ 8 ≤ d.toNat := by
  calc d &&& 8 ≠ 0
      ↔ d.getLsbD 3 = true := d.and_twoPow_ne_zero_iff 3 (by decide)
    _ ↔ d.msb = true := Iff.rfl
    _ ↔ 8 ≤ d.toNat := by rw [BitVec.msb_eq_decide, decide_eq_true_iff]

end Sys2Proof

namespace Sys2Proof.Machine

/-- The mode by the numerical value of C[15]. -/
theorem mode_eq (s : State) :
    mode s = if (s.c.digit 15).toNat % 2 = 1 then .lrn else if 8 ≤ (s.c.digit 15).toNat then .run else .eval := by
  simp only [mode, Digit.and_one_ne_zero_iff, Digit.and_eight_ne_zero_iff]

theorem mode_eq_eval_of_c_zero {s : State} (hc : s.c = Reg.zero) : mode s = .eval := by
  rw [mode_eq, hc, Reg.digit_zero]
  rfl

/-- Settles O53, from the value form of the mode and the zero C of reset (70 R270). -/
theorem modeFollowsDigitFifteenOfC : Obligations.ModeFollowsDigitFifteenOfC :=
  ⟨mode_eq, mode_eq_eval_of_c_zero rfl⟩

end Sys2Proof.Machine

/-! The encoding read as arithmetic: a field of a word is a quotient and a remainder, the classes of 30 R81 are ranges
of the word's number, and each assembly formula of 30 R83 to R87 is a sum. The decoder's facts then follow by `omega`.
-/

namespace Sys2Proof

/-! ### Fields and class tests -/

theorem opField_toNat (w : RomWord) (lo n : Nat) : (opField w lo n).toNat = w.toNat / 2 ^ lo % 2 ^ n := by
  rw [opField, BitVec.extractLsb'_toNat, Nat.shiftRight_eq_div_pow]

/-- A test of the bits of one field against their mask reads the field. -/
theorem and_fieldMask_eq_iff (w : RomWord) (lo n : Nat) (hn : lo + n ≤ 16) (v : BitVec n) :
    w &&& (BitVec.allOnes n).setWidth 16 <<< lo = v.setWidth 16 <<< lo ↔ opField w lo n = v := by
  have hshift (x : BitVec n) {i : Nat} (hi : i < 16) :
      (x.setWidth 16 <<< lo).getLsbD i = (decide (lo ≤ i) && x.getLsbD (i - lo)) := by
    by_cases hlo : lo ≤ i <;> simp [hi, hlo]
  constructor
  · intro h
    refine BitVec.eq_of_getLsbD_eq fun i hi => ?_
    have hbit := congrArg (BitVec.getLsbD · (lo + i)) h
    simpa [hshift _ (show lo + i < 16 by omega), opField, hi] using hbit
  · rintro rfl
    refine BitVec.eq_of_getLsbD_eq fun i hi => ?_
    rw [BitVec.getLsbD_and, hshift _ hi, hshift _ hi]
    by_cases hlo : lo ≤ i <;> by_cases hin : i - lo < n <;> simp [hlo, hin, opField]

theorem maxOpcode_lt_iff (w : RomWord) : maxOpcode < w ↔ 0x2000 ≤ w.toNat := by
  rw [BitVec.lt_def]
  exact Iff.rfl

theorem and_controlMask_eq_branchBits_iff (w : RomWord) : w &&& controlMask = branchBits ↔ w.toNat / 2048 % 4 = 3 := by
  calc w &&& controlMask = branchBits ↔ opField w 11 2 = 3 := and_fieldMask_eq_iff w 11 2 (by decide) 3
    _ ↔ w.toNat / 2048 % 4 = 3 := by rw [← BitVec.toNat_inj, opField_toNat]; rfl

theorem and_controlMask_eq_callBits_iff (w : RomWord) : w &&& controlMask = callBits ↔ w.toNat / 2048 % 4 = 2 := by
  calc w &&& controlMask = callBits ↔ opField w 11 2 = 2 := and_fieldMask_eq_iff w 11 2 (by decide) 2
    _ ↔ w.toNat / 2048 % 4 = 2 := by rw [← BitVec.toNat_inj, opField_toNat]; rfl

theorem and_pageMask_eq_miscBits_iff (w : RomWord) : w &&& pageMask = miscBits ↔ w.toNat / 256 % 32 = 0xE := by
  calc w &&& pageMask = miscBits ↔ opField w 8 5 = 0xE := and_fieldMask_eq_iff w 8 5 (by decide) 0xE
    _ ↔ w.toNat / 256 % 32 = 0xE := by rw [← BitVec.toNat_inj, opField_toNat]; rfl

theorem and_pageMask_eq_flagBits_iff (w : RomWord) : w &&& pageMask = flagBits ↔ w.toNat / 256 % 32 = 0xC := by
  calc w &&& pageMask = flagBits ↔ opField w 8 5 = 0xC := and_fieldMask_eq_iff w 8 5 (by decide) 0xC
    _ ↔ w.toNat / 256 % 32 = 0xC := by rw [← BitVec.toNat_inj, opField_toNat]; rfl

theorem and_maskClassMask_eq_zero_iff (w : RomWord) : w &&& maskClassMask = 0 ↔ w.toNat / 4096 % 2 = 0 := by
  calc w &&& maskClassMask = 0 ↔ opField w 12 1 = 0 := and_fieldMask_eq_iff w 12 1 (by decide) 0
    _ ↔ w.toNat / 4096 % 2 = 0 := by rw [← BitVec.toNat_inj, opField_toNat]; rfl

theorem maskClass_iff_of_lt {w : RomWord} (h : w.toNat < 0x1000) :
    isMaskClass (opField w 8 4) = true ↔ w.toNat / 256 ≠ 0xC ∧ w.toNat / 256 ≠ 0xE := by
  have hm := opField_toNat w 8 4
  simp [isMaskClass, ← BitVec.toNat_inj, hm]
  omega

/-! ### The decoder by class (30 R81) -/

section classes

variable (c : Config) {w : RomWord}

theorem decode_outOfRange (h : 0x2000 ≤ w.toNat) : decode c w = .nopOor w := by
  simp only [decode, (maxOpcode_lt_iff w).mpr h, if_true]

theorem decode_branch (hlo : 0x1800 ≤ w.toNat) (hhi : w.toNat < 0x2000) : decode c w = decodeBranch w := by
  simp only [decode, maxOpcode_lt_iff, and_controlMask_eq_branchBits_iff]
  rw [if_neg (by omega), if_pos (by omega)]

theorem decode_call (hlo : 0x1000 ≤ w.toNat) (hhi : w.toNat < 0x1800) : decode c w = .call (opField w 0 11) := by
  simp only [decode, maxOpcode_lt_iff, and_controlMask_eq_branchBits_iff, and_controlMask_eq_callBits_iff]
  rw [if_neg (by omega), if_neg (by omega), if_pos (by omega)]

theorem decode_misc (h : w.toNat / 256 = 0xE) : decode c w = decodeMisc c w := by
  simp only [decode, maxOpcode_lt_iff, and_controlMask_eq_branchBits_iff, and_controlMask_eq_callBits_iff,
    and_pageMask_eq_miscBits_iff]
  rw [if_neg (by omega), if_neg (by omega), if_neg (by omega), if_pos (by omega)]

theorem decode_flag (h : w.toNat / 256 = 0xC) : decode c w = decodeFlag w := by
  simp only [decode, maxOpcode_lt_iff, and_controlMask_eq_branchBits_iff, and_controlMask_eq_callBits_iff,
    and_pageMask_eq_miscBits_iff, and_pageMask_eq_flagBits_iff]
  rw [if_neg (by omega), if_neg (by omega), if_neg (by omega), if_neg (by omega), if_pos (by omega)]

theorem decode_mask (hlt : w.toNat < 0x1000) (hm : isMaskClass (opField w 8 4) = true) :
    decode c w = decodeMask c w := by
  obtain ⟨hflag, hmisc⟩ := (maskClass_iff_of_lt hlt).mp hm
  simp only [decode, maxOpcode_lt_iff, and_controlMask_eq_branchBits_iff, and_controlMask_eq_callBits_iff,
    and_pageMask_eq_miscBits_iff, and_pageMask_eq_flagBits_iff, and_maskClassMask_eq_zero_iff]
  rw [if_neg (by omega), if_neg (by omega), if_neg (by omega), if_neg (by omega), if_neg (by omega),
    if_pos (by omega)]

end classes

/-- Every word is of one of the six classes of 30 R81. -/
theorem word_class_cases (w : RomWord) :
    0x2000 ≤ w.toNat ∨ (0x1800 ≤ w.toNat ∧ w.toNat < 0x2000) ∨ (0x1000 ≤ w.toNat ∧ w.toNat < 0x1800) ∨
      w.toNat / 256 = 0xE ∨ w.toNat / 256 = 0xC ∨
        (w.toNat < 0x1000 ∧ isMaskClass (opField w 8 4) = true) := by
  by_cases hlt : w.toNat < 0x1000
  · rw [maskClass_iff_of_lt hlt]
    omega
  · omega

/-! ### The assembly formulas as numbers -/

/-- A field placed below the bits already in a word adds its weighted value. -/
theorem toNat_or_field {w : Nat} (x : BitVec w) {n : Nat} (f : BitVec n) (lo : Nat) (hn : lo + n ≤ w)
    (hx : x.toNat % 2 ^ (lo + n) = 0) : (x ||| f.setWidth w <<< lo).toNat = x.toNat + f.toNat * 2 ^ lo := by
  have hf : f.toNat * 2 ^ lo < 2 ^ (lo + n) := by
    rw [Nat.add_comm lo n, Nat.pow_add]
    exact Nat.mul_lt_mul_of_pos_right f.isLt (Nat.two_pow_pos lo)
  have hpow : 2 ^ (lo + n) ≤ 2 ^ w := Nat.pow_le_pow_right (by decide) hn
  have hle : f.toNat ≤ f.toNat * 2 ^ lo := Nat.le_mul_of_pos_right _ (Nat.two_pow_pos lo)
  have hshift : (f.setWidth w <<< lo).toNat = f.toNat * 2 ^ lo := by
    rw [BitVec.toNat_shiftLeft, BitVec.toNat_setWidth, Nat.shiftLeft_eq, Nat.mod_eq_of_lt (by omega : f.toNat < 2 ^ w),
      Nat.mod_eq_of_lt (by omega)]
  obtain ⟨q, hq⟩ := Nat.dvd_of_mod_eq_zero hx
  rw [BitVec.toNat_or, hshift, hq, ← Nat.two_pow_add_eq_or_of_lt hf]

theorem toNat_or_lowField {w : Nat} (x : BitVec w) {n : Nat} (f : BitVec n) (hn : n ≤ w) (hx : x.toNat % 2 ^ n = 0) :
    (x ||| f.setWidth w).toNat = x.toNat + f.toNat := by
  simpa using toNat_or_field x f 0 (by omega) (by simpa using hx)

theorem toNat_field {n : Nat} (f : BitVec n) (lo : Nat) (hn : lo + n ≤ 16) :
    (f.setWidth 16 <<< lo).toNat = f.toNat * 2 ^ lo := by
  simpa using toNat_or_field (0 : RomWord) f lo hn (by simp)

theorem encode_br0_toNat (c : Config) (a : BitVec 10) : (encode c (.br0 a)).toNat = 0x1800 + a.toNat :=
  toNat_or_lowField branchBits a (by decide) (by decide)

theorem encode_br1_toNat (c : Config) (a : BitVec 10) : (encode c (.br1 a)).toNat = 0x1C00 + a.toNat :=
  toNat_or_lowField (branchBits ||| branchOnOne) a (by decide) (by decide)

theorem encodeMisc_toNat (aux code : BitVec 4) :
    (encodeMisc aux code).toNat = 0x0E00 + aux.toNat * 16 + code.toNat := by
  have hbits : miscBits.toNat = 0x0E00 := rfl
  have haux := toNat_or_field miscBits aux 4 (by decide) (by decide)
  rw [encodeMisc, toNat_or_lowField _ code (by decide) (by rw [haux, hbits]; omega), haux, hbits]
  omega

theorem encodeFlag_toNat (r : RegName) (d b f : BitVec 2) :
    (encodeFlag r d b f).toNat = 0x0C00 + (regIndex r).toNat * 64 + d.toNat * 16 + b.toNat * 4 + f.toNat := by
  have hbits : flagBits.toNat = 0x0C00 := rfl
  have hr := toNat_or_field flagBits (regIndex r) 6 (by decide) (by decide)
  have hd := toNat_or_field (w := 16) _ d 4 (by decide) (by rw [hr, hbits]; omega)
  have hb := toNat_or_field (w := 16) _ b 2 (by decide) (by rw [hd, hr, hbits]; omega)
  rw [encodeFlag, toNat_or_lowField _ f (by decide) (by rw [hb, hd, hr, hbits]; omega), hb, hd, hr, hbits]
  omega

theorem encodeMask_toNat (m : BitVec 4) (j : RegName) (k : BitVec 3) (l : BitVec 2) (n : BitVec 1) :
    (encodeMask m j k l n).toNat =
      m.toNat * 256 + (regIndex j).toNat * 64 + k.toNat * 8 + l.toNat * 2 + n.toNat := by
  have hm := toNat_field m 8 (by decide)
  have hj := toNat_or_field (w := 16) _ (regIndex j) 6 (by decide) (by rw [hm]; omega)
  have hk := toNat_or_field (w := 16) _ k 3 (by decide) (by rw [hj, hm]; omega)
  have hl := toNat_or_field (w := 16) _ l 1 (by decide) (by rw [hk, hj, hm]; omega)
  rw [encodeMask, toNat_or_lowField _ n (by decide) (by rw [hl, hk, hj, hm]; omega), hl, hk, hj, hm]
  omega

theorem encode_nopM_toNat (c : Config) (m : BitVec 4) (rest : BitVec 8) :
    (encode c (.nopM m rest)).toNat = m.toNat * 256 + rest.toNat := by
  have hm := toNat_field m 8 (by decide)
  rw [encode, toNat_or_lowField _ rest (by decide) (by rw [hm]; omega), hm]
  omega

/-- A word is known by its number. -/
theorem eq_ofNat_of_toNat {w : RomWord} {n : Nat} (h : w.toNat = n) : w = BitVec.ofNat 16 n := by
  rw [← h, BitVec.ofNat_toNat, BitVec.setWidth_eq]

/-- A field of a word is the value whose weight the word's number gives it. -/
theorem opField_eq_of_toNat {w : RomWord} {lo n : Nat} {v : BitVec n} (h : w.toNat / 2 ^ lo % 2 ^ n = v.toNat) :
    opField w lo n = v :=
  BitVec.eq_of_toNat_eq (by rw [opField_toNat, h])

end Sys2Proof

/-! The encoder and the decoder invert each other (30 R80 to R90): by class, the fields the decoder reads from an
assembled word are the fields it was assembled from, and every word of the class is assembled from its own fields. -/

namespace Sys2Proof

/-! ### Small fields, value by value -/

theorem regOfIndex_regIndex (r : RegName) : regOfIndex (regIndex r) = r := by
  cases r <;> rfl

theorem regIndex_regOfIndex (i : BitVec 2) : regIndex (regOfIndex i) = i := by
  revert i
  decide

theorem bitVec1_cases (n : BitVec 1) : n = 0 ∨ n = 1 := by
  revert n
  decide

theorem bitVec2_cases (l : BitVec 2) : l = 0 ∨ l = 1 ∨ l = 2 ∨ l = 3 := by
  revert l
  decide

/-- What K can name (30 R89): an operand, the shift code, or the reserved code 7. -/
theorem maskCode_cases (k : BitVec 3) : (∃ op, k = operandCode op) ∨ k = shiftCode ∨ k = 7 := by
  have hall : ∀ k : BitVec 3, k = operandCode (.reg .A) ∨ k = operandCode (.reg .B) ∨ k = operandCode (.reg .C) ∨
      k = operandCode (.reg .D) ∨ k = operandCode .one ∨ k = operandCode .r5 ∨ k = shiftCode ∨ k = 7 := by decide
  rcases hall k with h | h | h | h | h | h | h
  case inr.inr.inr.inr.inr.inr => exact .inr h
  all_goals exact .inl ⟨_, h⟩

theorem operandOfCode_operandCode (op : Operand) : operandOfCode (operandCode op) = some op := by
  rcases op with (_ | _ | _ | _) | _ | _ <;> rfl

theorem operandCode_ne_shiftCode (op : Operand) : operandCode op ≠ shiftCode := by
  rcases op with (_ | _ | _ | _) | _ | _ <;> decide

theorem Config.hasRange_iff (c : Config) (m : BitVec 4) :
    c.hasRange m = true ↔ isMaskClass m = true ∧ ∃ rg, c.range m = some rg := by
  rw [Config.hasRange, Bool.and_eq_true, Option.isSome_iff_exists]

/-- The reserved combinations of 45 R205, in numbers. -/
theorem reservedMask_iff (k : BitVec 3) (l : BitVec 2) (n : BitVec 1) :
    reservedMask k l n = true ↔
      k.toNat = 7 ∨ (k.toNat = 6 ∧ (l.toNat = 1 ∨ l.toNat = 3)) ∨
        ((k.toNat = 4 ∨ k.toNat = 5) ∧ (l.toNat = 1 ∨ (l.toNat = 3 ∧ n.toNat = 0))) := by
  revert k l n
  decide

/-! ### Branch and call words -/

theorem decode_encode_br0 (c : Config) (a : BitVec 10) : decode c (encode c (.br0 a)) = .br0 a := by
  have hnum := encode_br0_toNat c a
  have hop10 : opField (encode c (.br0 a)) 10 1 = 0 := opField_eq_of_toNat (by rw [hnum]; simp; omega)
  have hfield : opField (encode c (.br0 a)) 0 10 = a := opField_eq_of_toNat (by rw [hnum]; omega)
  rw [decode_branch c (by omega) (by omega), decodeBranch, if_pos hop10, hfield]

theorem decode_encode_br1 (c : Config) (a : BitVec 10) : decode c (encode c (.br1 a)) = .br1 a := by
  have hnum := encode_br1_toNat c a
  have hop10 : opField (encode c (.br1 a)) 10 1 = 1 := opField_eq_of_toNat (by rw [hnum]; simp; omega)
  have hfield : opField (encode c (.br1 a)) 0 10 = a := opField_eq_of_toNat (by rw [hnum]; omega)
  rw [decode_branch c (by omega) (by omega), decodeBranch, hop10, if_neg (by decide), hfield]

theorem encode_decodeBranch (c : Config) {w : RomWord} (hlo : 0x1800 ≤ w.toNat) (hhi : w.toNat < 0x2000) :
    encode c (decodeBranch w) = w := by
  have ha := opField_toNat w 0 10
  have hop10 := opField_toNat w 10 1
  refine BitVec.eq_of_toNat_eq ?_
  rw [decodeBranch]
  split
  case isTrue h =>
    have hzero : (0 : BitVec 1).toNat = 0 := rfl
    rw [h, hzero] at hop10
    rw [encode_br0_toNat, ha]
    omega
  case isFalse h =>
    have hone : (1 : BitVec 1).toNat = 1 := rfl
    rw [(bitVec1_cases _).resolve_left h, hone] at hop10
    rw [encode_br1_toNat, ha]
    omega

theorem encode_call_opField (c : Config) {w : RomWord} (hlo : 0x1000 ≤ w.toNat) (hhi : w.toNat < 0x1800) :
    encode c (.call (opField w 0 11)) = w := by
  refine BitVec.eq_of_toNat_eq ?_
  rw [← callWord_eq_encode, BitVec.toNat_ofNat, opField_toNat]
  omega

/-! ### Misc words -/

/-- The instruction of a misc operation with the given op[7:4] (43 R160): RABI splits the field, the others keep it. -/
def miscInstr (aux : BitVec 4) : MiscOp → Instr
  | .ytoa => .ytoa aux
  | .rabi => .rabi (aux.extractLsb' 3 1) (aux.extractLsb' 0 3)
  | .jmpR5 => .jmpR5 aux
  | .ret => .ret aux
  | .atox => .atox aux
  | .xtoa => .xtoa aux
  | .atoy => .atoy aux
  | .disp => .disp aux
  | .dec => .dec aux
  | .hex => .hex aux
  | .rabR5 => .rabR5 aux

/-- op[7:4] of a RABI word from its two fields. -/
def rabiAux (op7 : BitVec 1) (n : BitVec 3) : BitVec 4 := op7.setWidth 4 <<< 3 ||| n.setWidth 4

theorem miscInstr_rabiAux (op7 : BitVec 1) (n : BitVec 3) : miscInstr (rabiAux op7 n) .rabi = .rabi op7 n := by
  revert op7 n
  decide

theorem rabiAux_extract (aux : BitVec 4) : rabiAux (aux.extractLsb' 3 1) (aux.extractLsb' 0 3) = aux := by
  revert aux
  decide

theorem rabiAux_toNat (op7 : BitVec 1) (n : BitVec 3) : (rabiAux op7 n).toNat = op7.toNat * 8 + n.toNat := by
  revert op7 n
  decide

theorem encodeMisc_class (aux code : BitVec 4) : (encodeMisc aux code).toNat / 256 = 0xE := by
  rw [encodeMisc_toNat]
  omega

theorem opField_encodeMisc_code (aux code : BitVec 4) : opField (encodeMisc aux code) 0 4 = code :=
  opField_eq_of_toNat (by rw [encodeMisc_toNat]; omega)

theorem opField_encodeMisc_aux (aux code : BitVec 4) : opField (encodeMisc aux code) 4 4 = aux :=
  opField_eq_of_toNat (by rw [encodeMisc_toNat]; omega)

/-- RABI's two fields are those of op[7:4]. -/
theorem opField_encodeMisc_rabi (aux code : BitVec 4) :
    opField (encodeMisc aux code) 7 1 = aux.extractLsb' 3 1 ∧
      opField (encodeMisc aux code) 4 3 = aux.extractLsb' 0 3 := by
  constructor <;>
  · refine opField_eq_of_toNat ?_
    rw [encodeMisc_toNat, BitVec.extractLsb'_toNat, Nat.shiftRight_eq_div_pow]
    omega

/-- A misc word decodes to the operation MISC_MAP gives its code. -/
theorem decode_encodeMisc_some {c : Config} {code : BitVec 4} {op : MiscOp} (h : c.misc code = some op)
    (aux : BitVec 4) : decode c (encodeMisc aux code) = miscInstr aux op := by
  obtain ⟨hop7, hn⟩ := opField_encodeMisc_rabi aux code
  rw [decode_misc c (encodeMisc_class aux code), decodeMisc, opField_encodeMisc_code, opField_encodeMisc_aux, hop7,
    hn, h]
  cases op <;> rfl

theorem decode_encodeMisc_none {c : Config} {code : BitVec 4} (h : c.misc code = none) (aux : BitVec 4) :
    decode c (encodeMisc aux code) = .miscRsv aux code := by
  rw [decode_misc c (encodeMisc_class aux code), decodeMisc, opField_encodeMisc_code, opField_encodeMisc_aux, h]

theorem encodeMisc_opField {w : RomWord} (h : w.toNat / 256 = 0xE) :
    encodeMisc (opField w 4 4) (opField w 0 4) = w := by
  refine BitVec.eq_of_toNat_eq ?_
  rw [encodeMisc_toNat, opField_toNat, opField_toNat]
  omega

theorem encode_miscInstr (c : Config) (aux : BitVec 4) (op : MiscOp) :
    encode c (miscInstr aux op) = encodeMisc aux (miscCode c op) := by
  cases op
  case rabi => exact congrArg (encodeMisc · (miscCode c .rabi)) (rabiAux_extract aux)
  all_goals rfl

theorem wellFormed_miscInstr (c : Config) (aux : BitVec 4) (op : MiscOp) :
    (miscInstr aux op).wellFormed c = c.hasMisc op := by
  cases op <;> rfl

theorem Config.misc_eq_getElem (c : Config) (code : BitVec 4) :
    some (c.misc code) = c.miscMap.toList[code.toNat]? := by
  have hlt : code.toNat < c.miscMap.toList.length := Vector.length_toList ▸ code.isLt
  rw [List.getElem?_eq_getElem hlt, Vector.getElem_toList]
  rfl

theorem Config.hasMisc_of_misc {c : Config} {code : BitVec 4} {op : MiscOp} (h : c.misc code = some op) :
    c.hasMisc op = true := by
  rw [Config.hasMisc, List.contains_iff_mem]
  refine List.mem_of_getElem? (i := code.toNat) ?_
  rw [← c.misc_eq_getElem, h]

/-- The encoder's code for an operation selects it, if any code does (log entry 31). -/
theorem Config.misc_miscCode {c : Config} {op : MiscOp} (h : c.hasMisc op = true) :
    c.misc (miscCode c op) = some op := by
  have hlt : c.miscMap.toList.idxOf (some op) < c.miscMap.toList.length :=
    List.idxOf_lt_length_of_mem (List.contains_iff_mem.mp h)
  have hlen : c.miscMap.toList.length = 16 := Vector.length_toList
  have hcode : (miscCode c op).toNat = c.miscMap.toList.idxOf (some op) := by
    rw [miscCode, BitVec.toNat_ofNat]
    omega
  refine Option.some.inj ?_
  rw [c.misc_eq_getElem, hcode, List.getElem?_eq_getElem hlt, List.getElem_idxOf]

/-- A value kept by a filter without repetition stands at its first index only. -/
theorem idxOf_eq_of_nodup_filter {α : Type} [BEq α] [LawfulBEq α] {p : α → Bool} {x : α} (hx : p x = true) :
    ∀ {l : List α} {i : Nat}, (l.filter p).Nodup → l[i]? = some x → l.idxOf x = i := by
  intro l
  induction l with
  | nil => simp
  | cons y rest ih =>
    intro i hnodup hi
    cases i with
    | zero =>
      obtain rfl : y = x := by simpa using hi
      exact List.idxOf_cons_self
    | succ i =>
      have hrest : rest[i]? = some x := by simpa using hi
      have hmem : x ∈ rest.filter p := List.mem_filter.mpr ⟨List.mem_of_getElem? hrest, hx⟩
      have hne : y ≠ x := by
        rintro rfl
        rw [List.filter_cons_of_pos hx] at hnodup
        exact (List.nodup_cons.mp hnodup).1 hmem
      have hnodupRest : (rest.filter p).Nodup := hnodup.sublist ((List.sublist_cons_self y rest).filter p)
      rw [List.idxOf_cons, beq_false_of_ne hne, cond_false, ih hnodupRest hrest]

theorem miscCode_of_nodup {c : Config} (hnodup : (c.miscMap.toList.filter Option.isSome).Nodup) {code : BitVec 4}
    {op : MiscOp} (h : c.misc code = some op) : miscCode c op = code := by
  have hidx : c.miscMap.toList.idxOf (some op) = code.toNat := by
    refine idxOf_eq_of_nodup_filter (p := Option.isSome) rfl hnodup ?_
    rw [← c.misc_eq_getElem, h]
  refine BitVec.eq_of_toNat_eq ?_
  rw [miscCode, hidx, BitVec.toNat_ofNat]
  omega

/-- The round trip of a misc operation that some code selects. -/
theorem decode_encode_miscInstr {c : Config} {op : MiscOp} (h : c.hasMisc op = true) (aux : BitVec 4) :
    decode c (encode c (miscInstr aux op)) = miscInstr aux op := by
  rw [encode_miscInstr, decode_encodeMisc_some (Config.misc_miscCode h)]

/-! ### Flag words -/

theorem encodeFlag_class (r : RegName) (d b f : BitVec 2) : (encodeFlag r d b f).toNat / 256 = 0xC := by
  rw [encodeFlag_toNat]
  omega

/-- What the decoder reads from an assembled flag word. -/
theorem opField_encodeFlag (r : RegName) (d b f : BitVec 2) :
    opField (encodeFlag r d b f) 6 2 = regIndex r ∧ opField (encodeFlag r d b f) 4 2 = d ∧
      opField (encodeFlag r d b f) 2 2 = b ∧ opField (encodeFlag r d b f) 0 2 = f := by
  refine ⟨?_, ?_, ?_, ?_⟩ <;>
  · refine opField_eq_of_toNat ?_
    rw [encodeFlag_toNat]
    omega

/-- The flag word of each function code is the word of its instruction. -/
theorem decode_encodeFlag (c : Config) (r : RegName) (d b : BitVec 2) :
    decode c (encodeFlag r d b 0) = .setf r d b ∧ decode c (encodeFlag r d b 1) = .clrf r d b ∧
      decode c (encodeFlag r d b 2) = .tstf r d b ∧ decode c (encodeFlag r d b 3) = .tglf r d b := by
  refine ⟨?_, ?_, ?_, ?_⟩ <;>
  · rw [decode_flag c (encodeFlag_class ..)]
    simp [decodeFlag, opField_encodeFlag, regOfIndex_regIndex]

theorem encodeFlag_opField {w : RomWord} (h : w.toNat / 256 = 0xC) :
    encodeFlag (regOfIndex (opField w 6 2)) (opField w 4 2) (opField w 2 2) (opField w 0 2) = w := by
  refine BitVec.eq_of_toNat_eq ?_
  simp only [encodeFlag_toNat, regIndex_regOfIndex, opField_toNat]
  omega

/-! ### Mask words -/

/-- What the decoder reads from an assembled mask word. -/
theorem opField_encodeMask (m : BitVec 4) (j : RegName) (k : BitVec 3) (l : BitVec 2) (n : BitVec 1) :
    opField (encodeMask m j k l n) 8 4 = m ∧ opField (encodeMask m j k l n) 6 2 = regIndex j ∧
      opField (encodeMask m j k l n) 3 3 = k ∧ opField (encodeMask m j k l n) 1 2 = l ∧
        opField (encodeMask m j k l n) 0 1 = n := by
  refine ⟨?_, ?_, ?_, ?_, ?_⟩ <;>
  · refine opField_eq_of_toNat ?_
    rw [encodeMask_toNat]
    omega

theorem encodeMask_opField {w : RomWord} (h : w.toNat < 0x1000) :
    encodeMask (opField w 8 4) (regOfIndex (opField w 6 2)) (opField w 3 3) (opField w 1 2) (opField w 0 1) = w := by
  refine BitVec.eq_of_toNat_eq ?_
  simp only [encodeMask_toNat, regIndex_regOfIndex, opField_toNat]
  omega

section maskWords

variable {c : Config} {m : BitVec 4} (j : RegName) (l : BitVec 2) (n : BitVec 1)

/-- With a range, an assembled mask word is decoded by its K (30 R89, R90). -/
theorem decode_encodeMask (h : c.hasRange m = true) (k : BitVec 3) :
    decode c (encodeMask m j k l n) =
      if k = shiftCode then decodeShift m j l n
      else ((operandOfCode k).map fun op => decodeArith m j op l n).getD (.maskRsv m j k l n) := by
  obtain ⟨hclass, rg, hrg⟩ := (c.hasRange_iff m).mp h
  obtain ⟨hm, hj, hk, hl, hn⟩ := opField_encodeMask m j k l n
  rw [decode_mask c (by rw [encodeMask_toNat]; omega) (by rw [hm, hclass])]
  simp only [decodeMask, hm, hj, hk, hl, hn, hrg, regOfIndex_regIndex]
  cases operandOfCode k <;> rfl

theorem decode_shiftWord (h : c.hasRange m = true) :
    decode c (encodeMask m j shiftCode l n) = decodeShift m j l n := by
  rw [decode_encodeMask j l n h, if_pos rfl]

theorem decode_operandWord (h : c.hasRange m = true) (op : Operand) :
    decode c (encodeMask m j (operandCode op) l n) = decodeArith m j op l n := by
  rw [decode_encodeMask j l n h, if_neg (operandCode_ne_shiftCode op), operandOfCode_operandCode]
  rfl

theorem decode_codeSevenWord (h : c.hasRange m = true) :
    decode c (encodeMask m j 7 l n) = .maskRsv m j 7 l n := by
  rw [decode_encodeMask j l n h, if_neg (by decide)]
  rfl

theorem decodeShift_of_reserved (h : reservedMask shiftCode l n = true) :
    decodeShift m j l n = .maskRsv m j shiftCode l n := by
  have hl : l = 1 ∨ l = 3 := by
    revert l n
    decide
  rcases hl with rfl | rfl <;> rcases bitVec1_cases n with rfl | rfl <;> rfl

theorem decodeArith_of_reserved {op : Operand} (h : reservedMask (operandCode op) l n = true) :
    decodeArith m j op l n = .maskRsv m j (operandCode op) l n := by
  have hln : l = 1 ∨ (l = 3 ∧ n = 0) := by
    rcases op with (_ | _ | _ | _) | _ | _ <;> revert l n <;> decide
  have hop : op = .one ∨ op = .r5 := by
    rcases op with (_ | _ | _ | _) | _ | _ <;> revert l n <;> decide
  rcases hln with rfl | ⟨rfl, rfl⟩
  · rcases hop with rfl | rfl <;> rcases bitVec1_cases n with rfl | rfl <;> rfl
  · rcases hop with rfl | rfl <;> rfl

/-- A reserved combination with a valid M decodes to MASK-RSV (45 R205). -/
theorem decode_reservedWord (h : c.hasRange m = true) {k : BitVec 3} (hrsv : reservedMask k l n = true) :
    decode c (encodeMask m j k l n) = .maskRsv m j k l n := by
  rcases maskCode_cases k with ⟨op, rfl⟩ | rfl | rfl
  · rw [decode_operandWord j l n h, decodeArith_of_reserved j l n hrsv]
  · rw [decode_shiftWord j l n h, decodeShift_of_reserved j l n hrsv]
  · exact decode_codeSevenWord j l n h

/-- The grid's row of shifts gives well-formed instructions and drops no bit. -/
theorem decodeShift_faithful (h : c.hasRange m = true) :
    (decodeShift m j l n).wellFormed c = true ∧ encode c (decodeShift m j l n) = encodeMask m j shiftCode l n := by
  rcases bitVec2_cases l with rfl | rfl | rfl | rfl <;> rcases bitVec1_cases n with rfl | rfl <;>
    exact ⟨by simp [decodeShift, Instr.wellFormed, h, reservedMask, shiftCode], rfl⟩

/-- The grid's rows of operands give well-formed instructions and drop no bit. -/
theorem decodeArith_faithful (h : c.hasRange m = true) (op : Operand) :
    (decodeArith m j op l n).wellFormed c = true ∧
      encode c (decodeArith m j op l n) = encodeMask m j (operandCode op) l n := by
  rcases bitVec2_cases l with rfl | rfl | rfl | rfl <;> rcases bitVec1_cases n with rfl | rfl <;> cases op <;>
    exact ⟨by simp [decodeArith, Instr.wellFormed, h, reservedMask, operandCode], rfl⟩

end maskWords

theorem opField_encode_nopM (c : Config) (m : BitVec 4) (rest : BitVec 8) :
    opField (encode c (.nopM m rest)) 8 4 = m ∧ opField (encode c (.nopM m rest)) 0 8 = rest := by
  constructor <;>
  · refine opField_eq_of_toNat ?_
    rw [encode_nopM_toNat]
    omega

theorem decodeMask_of_range_none {c : Config} {w : RomWord} (h : c.range (opField w 8 4) = none) :
    decodeMask c w = .nopM (opField w 8 4) (opField w 0 8) := by
  simp only [decodeMask, h]

theorem decode_encode_nopM {c : Config} {m : BitVec 4} (hclass : isMaskClass m = true) (h : c.range m = none)
    (rest : BitVec 8) : decode c (encode c (.nopM m rest)) = .nopM m rest := by
  obtain ⟨hm, hrest⟩ := opField_encode_nopM c m rest
  rw [decode_mask c (by rw [encode_nopM_toNat]; omega) (by rw [hm, hclass]),
    decodeMask_of_range_none (by rw [hm, h]), hm, hrest]

theorem encode_nopM_opField (c : Config) {w : RomWord} (h : w.toNat < 0x1000) :
    encode c (.nopM (opField w 8 4) (opField w 0 8)) = w := by
  refine BitVec.eq_of_toNat_eq ?_
  rw [encode_nopM_toNat, opField_toNat, opField_toNat]
  omega

/-! ### Both directions -/

/-- `i` is well-formed and its word is `w`. -/
def Instr.Encodes (c : Config) (i : Instr) (w : RomWord) : Prop := i.wellFormed c = true ∧ encode c i = w

theorem decode_encodes_of_maskClass {c : Config} {w : RomWord} (hlt : w.toNat < 0x1000)
    (hclass : isMaskClass (opField w 8 4) = true) : (decode c w).Encodes c w := by
  cases hrg : c.range (opField w 8 4) with
  | none =>
    rw [decode_mask c hlt hclass, decodeMask_of_range_none hrg]
    exact ⟨by simp [Instr.wellFormed, hclass, hrg], encode_nopM_opField c hlt⟩
  | some rg =>
    have h : c.hasRange (opField w 8 4) = true := (c.hasRange_iff _).mpr ⟨hclass, rg, hrg⟩
    rw [← encodeMask_opField hlt]
    rcases maskCode_cases (opField w 3 3) with ⟨op, hk⟩ | hk | hk <;> rw [hk]
    · rw [decode_operandWord _ _ _ h]
      exact decodeArith_faithful _ _ _ h op
    · rw [decode_shiftWord _ _ _ h]
      exact decodeShift_faithful _ _ _ h
    · rw [decode_codeSevenWord _ _ _ h]
      exact ⟨by simp [Instr.wellFormed, h, reservedMask], rfl⟩

theorem decode_encodes_of_flagClass (c : Config) {w : RomWord} (h : w.toNat / 256 = 0xC) :
    (decode c w).Encodes c w := by
  rw [← encodeFlag_opField h]
  obtain ⟨hsetf, hclrf, htstf, htglf⟩ :=
    decode_encodeFlag c (regOfIndex (opField w 6 2)) (opField w 4 2) (opField w 2 2)
  rcases bitVec2_cases (opField w 0 2) with hf | hf | hf | hf <;> rw [hf]
  · rw [hsetf]
    exact ⟨rfl, rfl⟩
  · rw [hclrf]
    exact ⟨rfl, rfl⟩
  · rw [htstf]
    exact ⟨rfl, rfl⟩
  · rw [htglf]
    exact ⟨rfl, rfl⟩

/-- What a word decodes to encodes the word; a misc operation does so up to the choice among the codes that select it
(log entry 31). -/
theorem decode_encodes_or_miscInstr (c : Config) (w : RomWord) :
    (decode c w).Encodes c w ∨
      ∃ aux code op, w = encodeMisc aux code ∧ c.misc code = some op ∧ decode c w = miscInstr aux op := by
  rcases word_class_cases w with hoor | ⟨hlo, hhi⟩ | ⟨hlo, hhi⟩ | hmisc | hflag | ⟨hlt, hclass⟩
  · left
    rw [decode_outOfRange c hoor]
    exact ⟨decide_eq_true ((maxOpcode_lt_iff w).mpr hoor), rfl⟩
  · left
    have hwf : (decodeBranch w).wellFormed c = true := by
      rw [decodeBranch]
      split <;> rfl
    rw [decode_branch c hlo hhi]
    exact ⟨hwf, encode_decodeBranch c hlo hhi⟩
  · left
    rw [decode_call c hlo hhi]
    exact ⟨rfl, encode_call_opField c hlo hhi⟩
  · have hw := encodeMisc_opField hmisc
    cases hop : c.misc (opField w 0 4) with
    | none =>
      left
      rw [← hw, decode_encodeMisc_none hop]
      exact ⟨by simp [Instr.wellFormed, hop], rfl⟩
    | some op => exact .inr ⟨_, _, op, hw.symm, hop, by rw [← decode_encodeMisc_some hop, hw]⟩
  · exact .inl (decode_encodes_of_flagClass c hflag)
  · exact .inl (decode_encodes_of_maskClass hlt hclass)

/-- Settles O2, by class of the word; among the misc words the encoder's lowest code is the word's own, because no other
code selects its operation. -/
theorem everyWordIsItsInstructionsEncoding : Obligations.EveryWordIsItsInstructionsEncoding := by
  intro c w
  rcases decode_encodes_or_miscInstr c w with ⟨hwf, henc⟩ | ⟨aux, code, op, hw, hop, hdec⟩
  · exact ⟨hwf, fun _ => henc⟩
  · rw [hdec, wellFormed_miscInstr, encode_miscInstr]
    exact ⟨Config.hasMisc_of_misc hop, fun hnodup => by rw [miscCode_of_nodup hnodup hop, hw]⟩

/-- Settles O1, by the instruction: each assembly formula keeps the fields the decoder reads, and a misc operation's
code is one that MISC_MAP gives it. -/
theorem decodeOfEncodeIsIdentity : Obligations.DecodeOfEncodeIsIdentity := by
  intro c i hwf
  cases i with
  | nopOor w => exact decode_outOfRange c ((maxOpcode_lt_iff w).mp (of_decide_eq_true hwf))
  | br0 a => exact decode_encode_br0 c a
  | br1 a => exact decode_encode_br1 c a
  | call a => exact decode_encode_call c a
  | rabi op7 n =>
    rw [← miscInstr_rabiAux op7 n]
    exact decode_encode_miscInstr hwf _
  | ytoa aux => exact decode_encode_miscInstr (op := .ytoa) hwf aux
  | jmpR5 aux => exact decode_encode_miscInstr (op := .jmpR5) hwf aux
  | ret aux => exact decode_encode_miscInstr (op := .ret) hwf aux
  | atox aux => exact decode_encode_miscInstr (op := .atox) hwf aux
  | xtoa aux => exact decode_encode_miscInstr (op := .xtoa) hwf aux
  | atoy aux => exact decode_encode_miscInstr (op := .atoy) hwf aux
  | disp aux => exact decode_encode_miscInstr (op := .disp) hwf aux
  | dec aux => exact decode_encode_miscInstr (op := .dec) hwf aux
  | hex aux => exact decode_encode_miscInstr (op := .hex) hwf aux
  | rabR5 aux => exact decode_encode_miscInstr (op := .rabR5) hwf aux
  | miscRsv aux code => exact decode_encodeMisc_none (Option.isNone_iff_eq_none.mp hwf) aux
  | setf r d b =>
    obtain ⟨hsetf, -, -, -⟩ := decode_encodeFlag c r d b
    exact hsetf
  | clrf r d b =>
    obtain ⟨-, hclrf, -, -⟩ := decode_encodeFlag c r d b
    exact hclrf
  | tstf r d b =>
    obtain ⟨-, -, htstf, -⟩ := decode_encodeFlag c r d b
    exact htstf
  | tglf r d b =>
    obtain ⟨-, -, -, htglf⟩ := decode_encodeFlag c r d b
    exact htglf
  | nopM m rest =>
    obtain ⟨hclass, hnone⟩ := Bool.and_eq_true_iff.mp hwf
    exact decode_encode_nopM hclass (Option.isNone_iff_eq_none.mp hnone) rest
  | maskRsv m j k l n =>
    obtain ⟨hrange, hrsv⟩ := Bool.and_eq_true_iff.mp hwf
    exact decode_reservedWord j l n hrange hrsv
  | shl m j | shr m j | shln m j | shrn m j => exact decode_shiftWord j _ _ hwf
  | addj m j k | subj m j k | addn m j k | subn m j k | stor m j k => exact decode_operandWord j _ _ hwf k
  | addk m j k | subk m j k | exch m j k => exact decode_operandWord j _ _ hwf (.reg k)

end Sys2Proof

/-! The step (41 R131 to R137) over the decoder's facts: which words are refused (30 R93), which only advance pc, and
what each costs. -/

namespace Sys2Proof

/-- Settles O3: ten closed words, each decoded by evaluation. -/
theorem wordsFromTheEncodingTablesDecode : Obligations.WordsFromTheEncodingTablesDecode := by
  unfold Obligations.WordsFromTheEncodingTablesDecode
  decide

/-! ### Reserved words -/

/-- Whether a reserved combination decodes to MASK-RSV is decided by its own fields, because decoding loses none. -/
theorem decode_eq_maskRsv_iff {c : Config} {w : RomWord} (hlt : w.toNat < 0x1000)
    (hrange : c.hasRange (opField w 8 4) = true) :
    (∃ m j k l n, decode c w = .maskRsv m j k l n) ↔
      reservedMask (opField w 3 3) (opField w 1 2) (opField w 0 1) = true := by
  constructor
  · rintro ⟨m, j, k, l, n, hdec⟩
    obtain ⟨hwf, henc⟩ := decode_encodes_of_maskClass hlt ((c.hasRange_iff _).mp hrange).1
    rw [hdec] at hwf henc
    obtain ⟨-, -, hk, hl, hn⟩ := opField_encodeMask m j k l n
    have hw : encodeMask m j k l n = w := henc
    rw [← hw, hk, hl, hn]
    exact (Bool.and_eq_true_iff.mp hwf).2
  · intro hrsv
    have hdec := decode_reservedWord (regOfIndex (opField w 6 2)) (opField w 1 2) (opField w 0 1) hrange hrsv
    rw [encodeMask_opField hlt] at hdec
    exact ⟨_, _, _, _, _, hdec⟩

/-- Settles O4, from the decoder's test of the word's own K, L and N. -/
theorem reservedMaskWordsAreExactlyTheSpecs : Obligations.ReservedMaskWordsAreExactlyTheSpecs := by
  intro c w hlt hrange
  have hiff := (decode_eq_maskRsv_iff hlt hrange).trans (reservedMask_iff _ _ _)
  simpa only [opField_toNat, Nat.reducePow, Nat.div_one] using hiff

/-- The two kinds of word that 30 R93 marks refused, in numbers and fields. -/
theorem refusedWord_iff (c : Config) (w : RomWord) :
    refusedWord c w = true ↔
      (w.toNat / 256 = 0xE ∧ c.misc (opField w 0 4) = none) ∨
        (w.toNat < 0x1000 ∧ c.hasRange (opField w 8 4) = true ∧
          reservedMask (opField w 3 3) (opField w 1 2) (opField w 0 1) = true) := by
  have hmisc : w &&& 0xFF00 = miscBits ↔ w.toNat / 256 = 0xE := by
    calc w &&& 0xFF00 = miscBits ↔ opField w 8 8 = 0xE := and_fieldMask_eq_iff w 8 8 (by decide) 0xE
      _ ↔ w.toNat / 256 % 256 = 0xE := by rw [← BitVec.toNat_inj, opField_toNat]; rfl
      _ ↔ w.toNat / 256 = 0xE := by omega
  have hlt : w < 0x1000 ↔ w.toNat < 0x1000 := Iff.rfl
  simp only [refusedWord, Bool.or_eq_true, Bool.and_eq_true, beq_iff_eq, hmisc, Option.isNone_iff_eq_none,
    decide_eq_true_eq, hlt, and_assoc]

/-- The instructions that stand for reserved encodings (43 R172, 45 R205). -/
def Instr.IsReserved (i : Instr) : Prop :=
  (∃ aux code, i = .miscRsv aux code) ∨ ∃ m j k l n, i = .maskRsv m j k l n

theorem not_isReserved_miscInstr (aux : BitVec 4) (op : MiscOp) : ¬ (miscInstr aux op).IsReserved := by
  cases op <;> simp [Instr.IsReserved, miscInstr]

/-- A reserved instruction comes from its own word. -/
theorem decode_encodes_of_isReserved {c : Config} {w : RomWord} (h : (decode c w).IsReserved) :
    (decode c w).Encodes c w := by
  rcases decode_encodes_or_miscInstr c w with henc | ⟨aux, code, op, -, -, hdec⟩
  · exact henc
  · exact absurd (hdec ▸ h) (not_isReserved_miscInstr aux op)

/-- The words 30 R93 marks refused are those that decode to a reserved instruction. -/
theorem refusedWord_iff_isReserved (c : Config) (w : RomWord) :
    refusedWord c w = true ↔ (decode c w).IsReserved := by
  rw [refusedWord_iff]
  constructor
  · rintro (⟨hclass, hnone⟩ | ⟨hlt, hrange, hrsv⟩)
    · have hdec := decode_encodeMisc_none hnone (opField w 4 4)
      rw [encodeMisc_opField hclass] at hdec
      exact .inl ⟨_, _, hdec⟩
    · exact .inr ((decode_eq_maskRsv_iff hlt hrange).mpr hrsv)
  · intro h
    obtain ⟨hwf, henc⟩ := decode_encodes_of_isReserved h
    rcases h with ⟨aux, code, hdec⟩ | ⟨m, j, k, l, n, hdec⟩
    · rw [hdec] at hwf henc
      have hw : encodeMisc aux code = w := henc
      rw [← hw, opField_encodeMisc_code]
      exact .inl ⟨encodeMisc_class aux code, Option.isNone_iff_eq_none.mp hwf⟩
    · rw [hdec] at hwf henc
      have hw : encodeMask m j k l n = w := henc
      obtain ⟨hm, -, hk, hl, hn⟩ := opField_encodeMask m j k l n
      rw [← hw, hm, hk, hl, hn]
      exact .inr ⟨by rw [encodeMask_toNat]; omega, Bool.and_eq_true_iff.mp hwf⟩

end Sys2Proof

namespace Sys2Proof.Machine

/-! ### The driver -/

theorem step_of_fetch {s : State} {w : RomWord} (h : fetch s = some w) :
    step s = exec (decode s.cfg w) { s with pc := s.pc + 1 } := by
  rw [step, h]
  rfl

theorem step_of_fetch_none {s : State} (h : fetch s = none) : step s = .fault (.romAbsent s.pc) := by
  rw [step, h]

/-- Settles O5, from the driver's equation and the round trip of the word. -/
theorem stepRunsTheDecodedInstruction : Obligations.StepRunsTheDecodedInstruction := by
  refine ⟨fun s w h => step_of_fetch h, fun s i hwf h => ?_⟩
  rw [step_of_fetch h, decodeOfEncodeIsIdentity s.cfg i hwf]

/-- Settles O6. -/
theorem fetchOfAnAbsentWordFaults : Obligations.FetchOfAnAbsentWordFaults :=
  fun _ => step_of_fetch_none

/-! ### Refused words -/

/-- Running an instruction has a next state unless the instruction is reserved (41 R139). -/
theorem exec_next_of_not_isReserved {i : Instr} (hi : ¬ i.IsReserved) (s : State) : ∃ t, exec i s = .next t := by
  cases hm : maskOpOf i with
  | some m =>
    obtain ⟨op, hexec, -⟩ := exec_eq_onRange_of_maskOpOf hm s
    rcases onRange_cases s m op with ⟨-, h⟩ | ⟨rg, -, h⟩ <;> exact ⟨_, hexec.trans h⟩
  | none =>
    cases i with
    | miscRsv aux code => exact absurd (.inl ⟨aux, code, rfl⟩) hi
    | maskRsv m j k l n => exact absurd (.inr ⟨m, j, k, l, n, rfl⟩) hi
    | addj | addk | addn | subj | subk | subn | exch | stor | shl | shr | shln | shrn => cases hm
    | _ => exact ⟨_, rfl⟩

/-- A reserved instruction is a no-op under reserved_as_nop (41 R137). -/
theorem exec_isReserved_nop {i : Instr} (hi : i.IsReserved) {s : State} (hnop : s.cfg.reservedAsNop = true) :
    exec i s = .next s := by
  rcases hi with ⟨aux, code, rfl⟩ | ⟨m, j, k, l, n, rfl⟩
  · simp only [exec, execMiscRsv, hnop, if_true]
  · cases hrg : s.cfg.range m <;> simp only [exec, execMaskRsv, hrg, hnop, if_true]

theorem exec_miscRsv_refused {s : State} (h : s.cfg.reservedAsNop = false) (aux code : BitVec 4) :
    exec (.miscRsv aux code) s = .refused (.reservedMisc (s.pc - 1) (encodeMisc aux code)) := by
  simp only [exec, execMiscRsv, h, Bool.false_eq_true, if_false, State.fetchedAt]

theorem exec_maskRsv_of_range_none {s : State} {m : BitVec 4} (hrg : s.cfg.range m = none) (j : RegName)
    (k : BitVec 3) (l : BitVec 2) (n : BitVec 1) : exec (.maskRsv m j k l n) s = .next s := by
  simp only [exec, execMaskRsv, hrg]

theorem exec_maskRsv_refused {s : State} (h : s.cfg.reservedAsNop = false) {m : BitVec 4} {rg : DigitRange}
    (hrg : s.cfg.range m = some rg) (j : RegName) (k : BitVec 3) (l : BitVec 2) (n : BitVec 1) :
    exec (.maskRsv m j k l n) s = .refused (.reservedMask (s.pc - 1) (encodeMask m j k l n)) := by
  simp only [exec, execMaskRsv, hrg, h, Bool.false_eq_true, if_false, State.fetchedAt]

/-- With reserved_as_nop false, a reserved instruction is refused with the address of the word and the word. -/
theorem exec_isReserved_refused {i : Instr} (hi : i.IsReserved) {s : State} {w : RomWord} (hw : i.Encodes s.cfg w)
    (hnop : s.cfg.reservedAsNop = false) :
    exec i s = .refused (.reservedMisc (s.pc - 1) w) ∨ exec i s = .refused (.reservedMask (s.pc - 1) w) := by
  obtain ⟨hwf, rfl⟩ := hw
  rcases hi with ⟨aux, code, rfl⟩ | ⟨m, j, k, l, n, rfl⟩
  · exact .inl (exec_miscRsv_refused hnop aux code)
  · obtain ⟨-, rg, hrg⟩ := (s.cfg.hasRange_iff m).mp (Bool.and_eq_true_iff.mp hwf).1
    exact .inr (exec_maskRsv_refused hnop hrg j k l n)

theorem step_refused {s : State} {w : RomWord} (hf : fetch s = some w) (h : (decode s.cfg w).IsReserved)
    (hnop : s.cfg.reservedAsNop = false) :
    step s = .refused (.reservedMisc s.pc w) ∨ step s = .refused (.reservedMask s.pc w) := by
  have hpc : s.pc + 1 - 1 = s.pc := BitVec.add_sub_cancel s.pc 1
  have hrefused := exec_isReserved_refused (s := { s with pc := s.pc + 1 }) h (decode_encodes_of_isReserved h) hnop
  rwa [hpc, ← step_of_fetch hf] at hrefused

/-- Settles O7: the refused words are those that decode to a reserved instruction, and only those can be refused. -/
theorem stepRunsExceptOnRefusedWords : Obligations.StepRunsExceptOnRefusedWords := by
  intro s w hf
  refine ⟨fun h hnop => step_refused hf ((refusedWord_iff_isReserved s.cfg w).mp h) hnop, fun h hnop => ?_, fun h => ?_⟩
  · rw [step_of_fetch hf]
    exact exec_isReserved_nop ((refusedWord_iff_isReserved s.cfg w).mp h) hnop
  · rw [step_of_fetch hf]
    refine exec_next_of_not_isReserved (fun hrsv => ?_) _
    rw [(refusedWord_iff_isReserved s.cfg w).mpr hrsv] at h
    cases h

/-! ### Costs and no-ops -/

/-- All bits of a mask made of two are set exactly when all bits of both are. -/
theorem and_or_eq_or_iff (w x y : RomWord) : w &&& (x ||| y) = x ||| y ↔ w &&& x = x ∧ w &&& y = y := by
  have hbool : ∀ a b c : Bool, (a && (b || c)) = (b || c) ↔ (a && b) = b ∧ (a && c) = c := by decide
  simp only [BitVec.eq_of_getLsbD_eq_iff, BitVec.getLsbD_and, BitVec.getLsbD_or, hbool, ← forall_and]

/-- The literal pattern of the cost asks for all ones in op[11:9] and in op[2:0] (41 R135). -/
theorem and_costPattern_iff (w : RomWord) :
    w &&& costPattern = costPattern ↔ w.toNat / 512 % 8 = 7 ∧ w.toNat % 8 = 7 := by
  have hhigh : w &&& 0x0E00 = 0x0E00 ↔ w.toNat / 512 % 8 = 7 := by
    calc w &&& 0x0E00 = 0x0E00 ↔ opField w 9 3 = 7 := and_fieldMask_eq_iff w 9 3 (by decide) 7
      _ ↔ w.toNat / 512 % 8 = 7 := by rw [← BitVec.toNat_inj, opField_toNat]; rfl
  have hlow : w &&& 0x0007 = 0x0007 ↔ w.toNat % 8 = 7 := by
    calc w &&& 0x0007 = 0x0007 ↔ opField w 0 3 = 7 := and_fieldMask_eq_iff w 0 3 (by decide) 7
      _ ↔ w.toNat % 8 = 7 := by rw [← BitVec.toNat_inj, opField_toNat, Nat.pow_zero, Nat.div_one]; rfl
  rw [← hhigh, ← hlow]
  exact and_or_eq_or_iff w 0x0E00 0x0007

theorem cost_eq (w : RomWord) : cost w = if w.toNat / 512 % 8 = 7 ∧ w.toNat % 8 = 7 then 32 else 1 := by
  simp only [cost, and_costPattern_iff]

theorem stepCost_of_fetch {s : State} {w : RomWord} (h : fetch s = some w) : stepCost s = some (cost w) := by
  rw [stepCost, h]
  rfl

/-- Settles O11, from the cost as a test of two fields. -/
theorem costFollowsTheLiteralPattern : Obligations.CostFollowsTheLiteralPattern := by
  intro s w hf
  rw [stepCost_of_fetch hf, cost_eq]

/-- Settles O8: such a word decodes to NOP-OOR, which runs to the state it is given. -/
theorem outOfRangeWordOnlyAdvancesPc : Obligations.OutOfRangeWordOnlyAdvancesPc := by
  intro s w hf hw
  refine ⟨?_, stepCost_of_fetch hf⟩
  rw [step_of_fetch hf, decode_outOfRange s.cfg hw]
  rfl

/-- The default MASK_RANGE is INVALID for 0xD and 0xF alone among the mask words' M (30 R88). -/
theorem defaultConfig_range_eq_none_iff {m : BitVec 4} (hm : isMaskClass m = true) :
    defaultConfig.range m = none ↔ m.toNat = 0xD ∨ m.toNat = 0xF := by
  revert m
  decide

/-- Settles O9: a mask word without a range decodes to NOP-M; which these are by default is the table of 30 R88. -/
theorem invalidRangeWordOnlyAdvancesPc : Obligations.InvalidRangeWordOnlyAdvancesPc := by
  refine ⟨fun s w hf hlt hclass hnone => ?_, fun w hlt hclass => ?_, fun w hhigh hlow => ?_⟩
  · rw [step_of_fetch hf, decode_mask s.cfg hlt hclass, decodeMask_of_range_none hnone]
    rfl
  · have hm : (w.extractLsb' 8 4).toNat = w.toNat / 256 := by
      have := opField_toNat w 8 4
      rw [opField] at this
      omega
    rw [defaultConfig_range_eq_none_iff hclass, hm]
  · rw [cost_eq, if_pos (by omega)]

end Sys2Proof.Machine

/-! What one instruction can do, said once: `InstrRan` lists the next states of `exec` as basic updates, and what each
part of the state can be changed by (10 R30) is read off that list. -/

namespace Sys2Proof

/-- The instructions that clear COND (10 R36). -/
def Instr.ClearsCond (i : Instr) : Prop :=
  (∃ a, i = .br0 a) ∨ (∃ a, i = .br1 a) ∨ (∃ a, i = .call a) ∨ ∃ aux, i = .ret aux

/-- The mask instructions that add or subtract (45 R193 to R198). -/
def Instr.AddsOrSubtracts (i : Instr) : Prop :=
  (∃ m j k, i = .addj m j k ∨ i = .addn m j k ∨ i = .subj m j k ∨ i = .subn m j k) ∨
    ∃ m j k, i = .addk m j k ∨ i = .subk m j k

end Sys2Proof

namespace Sys2Proof.Machine

/-! ### The next states of an instruction -/

/-- The next states `i` can have from `s`. -/
inductive InstrRan (s : State) : Instr → State → Prop where
  | idle {i} (hi : ¬ i.ClearsCond) : InstrRan s i s
  | br0 (a p) : InstrRan s (.br0 a) ((s.setPc p).setCond false)
  | br1 (a p) : InstrRan s (.br1 a) ((s.setPc p).setCond false)
  | call (a) : InstrRan s (.call a) (((s.setStack s.pc s.s0 s.s1 s.draws).setPc a).setCond false)
  | ret (aux v n) : InstrRan s (.ret aux) (((s.setStack s.s1 s.s2 v n).setPc s.s0).setCond false)
  | jmpR5 (aux) : InstrRan s (.jmpR5 aux) (s.setPc (r5Target s.r5))
  | ytoa (aux) : InstrRan s (.ytoa aux) (s.setReg .A s.activeY)
  | xtoa (aux) : InstrRan s (.xtoa aux) (s.setReg .A s.activeX)
  | atox (aux) : InstrRan s (.atox aux) (s.setActiveX s.a)
  | atoy (aux) : InstrRan s (.atoy aux) (s.setActiveY s.a)
  | rabi (op7 n) : InstrRan s (.rabi op7 n) (s.setRab n)
  | rabR5 (aux) : InstrRan s (.rabR5 aux) (s.setRab (r5Rab s.r5))
  | dec (aux) : InstrRan s (.dec aux) (s.setHex false)
  | hex (aux) : InstrRan s (.hex aux) (s.setHex true)
  | disp (aux) : InstrRan s (.disp aux) (s.latchDisplay s.a s.b)
  | dispKey (aux v) (hkey : s.keyPressed = true) :
      InstrRan s (.disp aux) (((s.latchDisplay s.a s.b).setR5 v).setCond true)
  | flag {i} (r v) (hi : ¬ i.ClearsCond) : InstrRan s i (s.setReg r v)
  | tstf (r d b e) : InstrRan s (.tstf r d b) (s.setCond (s.cond || e))
  | mask {i m rg t} (hm : maskOpOf i = some m) (hrg : s.cfg.range m = some rg) (hran : MaskPrimitiveRan rg s t)
      (hcond : i.AddsOrSubtracts ∨ t.cond = s.cond) : InstrRan s i t

theorem not_clearsCond_of_maskOpOf {i : Instr} {m : BitVec 4} (h : maskOpOf i = some m) : ¬ i.ClearsCond := by
  rintro (⟨a, rfl⟩ | ⟨a, rfl⟩ | ⟨a, rfl⟩ | ⟨aux, rfl⟩) <;> cases h

theorem not_clearsCond_of_isReserved {i : Instr} (h : i.IsReserved) : ¬ i.ClearsCond := by
  rcases h with ⟨aux, code, rfl⟩ | ⟨m, j, k, l, n, rfl⟩ <;> simp [Instr.ClearsCond]

/-- Of the mask instructions, only an add or a subtract touches COND. -/
theorem exec_maskOp_cond {i : Instr} {m : BitVec 4} (hm : maskOpOf i = some m) {s t : State}
    (h : exec i s = .next t) : i.AddsOrSubtracts ∨ t.cond = s.cond := by
  have hmove {m : BitVec 4} {op : DigitRange → State → State} (hop : ∀ rg, (op rg s).cond = s.cond)
      (h : onRange m op s = .next t) : t.cond = s.cond := by
    rcases onRange_cases s m op with ⟨-, hnext⟩ | ⟨rg, -, hnext⟩ <;> cases hnext.symm.trans h
    · rfl
    · exact hop rg
  cases i with
  | addj m j k | addn m j k | subj m j k | subn m j k => exact .inl (.inl ⟨m, j, k, by simp⟩)
  | addk m j k | subk m j k => exact .inl (.inr ⟨m, j, k, by simp⟩)
  | shl | shln =>
    simp only [exec, execShl, execShln] at h
    exact .inr (hmove (fun rg => by simp [opShiftLeft]) h)
  | shr | shrn =>
    simp only [exec, execShr, execShrn] at h
    exact .inr (hmove (fun rg => by simp [opShiftRight]) h)
  | stor =>
    simp only [exec, execStor] at h
    exact .inr (hmove (fun rg => by simp [opStore]) h)
  | exch =>
    simp only [exec, execExch] at h
    exact .inr (hmove (fun rg => opExchange_cond s rg _ _) h)
  | _ => cases hm

theorem exec_maskOp_instrRan {i : Instr} {m : BitVec 4} (hm : maskOpOf i = some m) {s t : State}
    (h : exec i s = .next t) : InstrRan s i t := by
  cases hrg : s.cfg.range m with
  | none =>
    obtain ⟨op, hexec, -⟩ := exec_eq_onRange_of_maskOpOf hm s
    rw [hexec, onRange_none s hrg op] at h
    cases h
    exact .idle (not_clearsCond_of_maskOpOf hm)
  | some rg => exact .mask hm hrg (exec_maskOp_ran hm hrg h) (exec_maskOp_cond hm h)

/-- A reserved instruction that has a next state left the state as it was (41 R137). -/
theorem exec_isReserved_next {i : Instr} (hi : i.IsReserved) {s t : State} (h : exec i s = .next t) : t = s := by
  cases hnop : s.cfg.reservedAsNop with
  | true =>
    rw [exec_isReserved_nop hi hnop] at h
    cases h
    rfl
  | false =>
    rcases hi with ⟨aux, code, rfl⟩ | ⟨m, j, k, l, n, rfl⟩
    · rw [exec_miscRsv_refused hnop] at h
      cases h
    · cases hrg : s.cfg.range m with
      | none =>
        rw [exec_maskRsv_of_range_none hrg] at h
        cases h
        rfl
      | some rg =>
        rw [exec_maskRsv_refused hnop hrg] at h
        cases h

/-- Every next state of `exec` is one of the list. -/
theorem exec_instrRan {i : Instr} {s t : State} (h : exec i s = .next t) : InstrRan s i t := by
  cases i with
  | nopOor | nopM =>
    cases h
    exact .idle (by simp [Instr.ClearsCond])
  | miscRsv aux code =>
    have hi : (Instr.miscRsv aux code).IsReserved := .inl ⟨_, _, rfl⟩
    rw [exec_isReserved_next hi h]
    exact .idle (not_clearsCond_of_isReserved hi)
  | maskRsv m j k l n =>
    have hi : (Instr.maskRsv m j k l n).IsReserved := .inr ⟨_, _, _, _, _, rfl⟩
    rw [exec_isReserved_next hi h]
    exact .idle (not_clearsCond_of_isReserved hi)
  | br0 a =>
    simp only [exec, execBr0, branchIf_eq] at h
    cases h
    exact .br0 a _
  | br1 a =>
    simp only [exec, execBr1, branchIf_eq] at h
    cases h
    exact .br1 a _
  | call a =>
    cases h
    exact .call a
  | ret aux =>
    obtain ⟨v, n, hpop⟩ := s.pop_cases
    simp only [exec, execRet, hpop] at h
    cases h
    exact .ret aux v n
  | jmpR5 aux =>
    cases h
    exact .jmpR5 aux
  | ytoa aux =>
    cases h
    exact .ytoa aux
  | xtoa aux =>
    cases h
    exact .xtoa aux
  | atox aux =>
    cases h
    exact .atox aux
  | atoy aux =>
    cases h
    exact .atoy aux
  | rabi op7 n =>
    cases h
    exact .rabi op7 n
  | rabR5 aux =>
    cases h
    exact .rabR5 aux
  | dec aux =>
    cases h
    exact .dec aux
  | hex aux =>
    cases h
    exact .hex aux
  | disp aux =>
    rcases (s.latchDisplay s.a s.b).scanKey_cases with ⟨hkey, hscan⟩ | ⟨-, hscan⟩ <;>
      simp only [exec, execDisp, hscan] at h <;> cases h
    · exact .dispKey aux _ hkey
    · exact .disp aux
  | setf | clrf | tglf =>
    cases h
    exact .flag _ _ (by simp [Instr.ClearsCond])
  | tstf r d b =>
    cases h
    exact .tstf r d b _
  | _ => exact exec_maskOp_instrRan rfl h

/-! ### What each part of the state can be changed by -/

theorem MaskPrimitiveRan.rom {rg : DigitRange} {s t : State} (h : MaskPrimitiveRan rg s t) : t.rom = s.rom := by
  cases h <;> simp [opRipple, opExchange]

/-- COND is set only by a mask primitive (40 R103). -/
theorem MaskPrimitiveRan.cond {rg : DigitRange} {s t : State} (h : MaskPrimitiveRan rg s t) (hs : s.cond = true) :
    t.cond = true := by
  cases h <;> simp [opRipple, opExchange, hs]

namespace InstrRan

variable {i : Instr} {s t : State}

theorem rom (h : InstrRan s i t) : t.rom = s.rom := by
  cases h with
  | mask _ _ hran _ => exact hran.rom
  | _ => rfl

theorem cfg (h : InstrRan s i t) : t.cfg = s.cfg := by
  cases h with
  | mask _ _ hran _ => exact hran.keeps.parameters.1
  | _ => rfl

theorem key (h : InstrRan s i t) : t.keyRow = s.keyRow ∧ t.keyCol = s.keyCol ∧ t.keyPressed = s.keyPressed := by
  cases h with
  | mask _ _ hran _ => exact hran.keeps.key
  | _ => exact ⟨rfl, rfl, rfl⟩

theorem display (h : InstrRan s i t) :
    (t.dA = s.dA ∧ t.dB = s.dB ∧ t.displayValid = s.displayValid) ∨ (∃ aux, i = .disp aux) ∧ t.displayValid = true := by
  cases h with
  | mask _ _ hran _ => exact .inl hran.keeps.display
  | disp aux | dispKey aux => exact .inr ⟨⟨aux, rfl⟩, rfl⟩
  | _ => exact .inl ⟨rfl, rfl, rfl⟩

theorem stack (h : InstrRan s i t) :
    (t.s0 = s.s0 ∧ t.s1 = s.s1 ∧ t.s2 = s.s2) ∨ (∃ a, i = .call a) ∨ ∃ aux, i = .ret aux := by
  cases h with
  | mask _ _ hran _ => exact .inl hran.keeps.stack
  | call a => exact .inr (.inl ⟨a, rfl⟩)
  | ret aux => exact .inr (.inr ⟨aux, rfl⟩)
  | _ => exact .inl ⟨rfl, rfl, rfl⟩

theorem rab (h : InstrRan s i t) : t.rab = s.rab ∨ (∃ h n, i = .rabi h n) ∨ ∃ aux, i = .rabR5 aux := by
  cases h with
  | mask _ _ hran _ => exact .inl hran.keeps.rab
  | rabi op7 n => exact .inr (.inl ⟨op7, n, rfl⟩)
  | rabR5 aux => exact .inr (.inr ⟨aux, rfl⟩)
  | _ => exact .inl rfl

theorem isHex (h : InstrRan s i t) : t.isHex = s.isHex ∨ (∃ aux, i = .dec aux) ∨ ∃ aux, i = .hex aux := by
  cases h with
  | mask _ _ hran _ => exact .inl hran.keeps.isHex
  | dec aux => exact .inr (.inl ⟨aux, rfl⟩)
  | hex aux => exact .inr (.inr ⟨aux, rfl⟩)
  | _ => exact .inl rfl

theorem pc (h : InstrRan s i t) : t.pc = s.pc ∨ i.ClearsCond ∨ ∃ aux, i = .jmpR5 aux := by
  cases h with
  | mask _ _ hran _ => exact .inl hran.keeps.pc
  | br0 a => exact .inr (.inl (.inl ⟨a, rfl⟩))
  | br1 a => exact .inr (.inl (.inr (.inl ⟨a, rfl⟩)))
  | call a => exact .inr (.inl (.inr (.inr (.inl ⟨a, rfl⟩))))
  | ret aux => exact .inr (.inl (.inr (.inr (.inr ⟨aux, rfl⟩))))
  | jmpR5 aux => exact .inr (.inr ⟨aux, rfl⟩)
  | _ => exact .inl rfl

theorem x (h : InstrRan s i t) : t.x = s.x ∨ (∃ aux, i = .atox aux) ∧ t.x = s.x.set s.rab.toNat s.a := by
  cases h with
  | mask _ _ hran _ => exact .inl hran.keeps.x
  | atox aux => exact .inr ⟨⟨aux, rfl⟩, rfl⟩
  | _ => exact .inl rfl

theorem y (h : InstrRan s i t) : t.y = s.y ∨ (∃ aux, i = .atoy aux) ∧ t.y = s.y.set s.rab.toNat s.a := by
  cases h with
  | mask _ _ hran _ => exact .inl hran.keeps.y
  | atoy aux => exact .inr ⟨⟨aux, rfl⟩, rfl⟩
  | _ => exact .inl rfl

theorem r5 (h : InstrRan s i t) :
    t.r5 = s.r5 ∨ (∃ m, maskOpOf i = some m ∧ (s.cfg.range m).isSome = true) ∨
      (∃ aux, i = .disp aux) ∧ s.keyPressed = true := by
  cases h with
  | mask hm hrg _ _ => exact .inr (.inl ⟨_, hm, by rw [hrg]; rfl⟩)
  | dispKey aux _ hkey => exact .inr (.inr ⟨⟨aux, rfl⟩, hkey⟩)
  | _ => exact .inl rfl

/-- A branch, a call and a return leave COND clear. -/
theorem cond_of_clearsCond (h : InstrRan s i t) (hi : i.ClearsCond) : t.cond = false := by
  cases h with
  | br0 | br1 | call | ret => rfl
  | idle hno | flag _ _ hno => exact absurd hi hno
  | mask hm => exact absurd hi (not_clearsCond_of_maskOpOf hm)
  | _ => rcases hi with ⟨_, hi⟩ | ⟨_, hi⟩ | ⟨_, hi⟩ | ⟨_, hi⟩ <;> cases hi

/-- Nothing else clears COND. -/
theorem clearsCond_of_cond (h : InstrRan s i t) (hs : s.cond = true) (ht : t.cond = false) : i.ClearsCond := by
  cases h with
  | br0 a => exact .inl ⟨a, rfl⟩
  | br1 a => exact .inr (.inl ⟨a, rfl⟩)
  | call a => exact .inr (.inr (.inl ⟨a, rfl⟩))
  | ret aux => exact .inr (.inr (.inr ⟨aux, rfl⟩))
  | mask _ _ hran _ => simp [hran.cond hs] at ht
  | _ => simp [hs] at ht

theorem cond_raised (h : InstrRan s i t) (hs : s.cond = false) (ht : t.cond = true) :
    i.AddsOrSubtracts ∨ (∃ r d b, i = .tstf r d b) ∨ (∃ aux, i = .disp aux) ∧ s.keyPressed = true := by
  cases h with
  | mask _ _ _ hcond => exact .inl (hcond.resolve_right fun h => by simp [h, hs] at ht)
  | tstf r d b => exact .inr (.inl ⟨r, d, b, rfl⟩)
  | dispKey aux _ hkey => exact .inr (.inr ⟨⟨aux, rfl⟩, hkey⟩)
  | _ => simp [hs] at ht

end InstrRan

/-! ### The writers of each element (10 R30 to R42) -/

/-- Settles O18, from the list of next states. -/
theorem condClearedExactlyByBranchCallReturn : Obligations.CondClearedExactlyByBranchCallReturn :=
  fun _ _ _ h => ⟨(exec_instrRan h).cond_of_clearsCond, (exec_instrRan h).clearsCond_of_cond⟩

/-- Settles O19, from the list of next states. -/
theorem condRaisedOnlyByArithmeticTestAndDisp : Obligations.CondRaisedOnlyByArithmeticTestAndDisp := by
  intro i s t h hs ht
  rcases (exec_instrRan h).cond_raised hs ht with (hj | hk) | htest | hdisp
  · exact .inl hj
  · exact .inr (.inl hk)
  · exact .inr (.inr (.inl htest))
  · exact .inr (.inr (.inr hdisp))

/-- Settles O20, from the list of next states. -/
theorem r5WrittenOnlyByMaskOpsAndDisp : Obligations.R5WrittenOnlyByMaskOpsAndDisp :=
  fun _ _ _ h hne => (exec_instrRan h).r5.resolve_left hne

/-- A vector of storage registers differs from itself with one register written at that register only. -/
theorem get_set_ne {v : Vector Reg 8} {r : BitVec 3} {a : Reg} {n : Fin 8}
    (h : (v.set r.toNat a).get n ≠ v.get n) : n.val = r.toNat := by
  by_contra hne
  refine h ?_
  rw [Vector.get_eq_getElem, Vector.getElem_set_ne _ _ (Ne.symm hne), Vector.get_eq_getElem]

/-- Settles O21: ATOX and ATOY set one register of the vector, and the others read as before. -/
theorem storageWrittenOnlyThroughRab : Obligations.StorageWrittenOnlyThroughRab := by
  intro i s t h n
  constructor
  · intro hne
    rcases (exec_instrRan h).x with hx | ⟨haux, hx⟩
    · exact absurd (by rw [hx]) hne
    · exact ⟨haux, get_set_ne (hx ▸ hne)⟩
  · intro hne
    rcases (exec_instrRan h).y with hy | ⟨haux, hy⟩
    · exact absurd (by rw [hy]) hne
    · exact ⟨haux, get_set_ne (hy ▸ hne)⟩

/-- Settles O22, from the list of next states. -/
theorem specialRegistersWrittenOnlyByTheirWriters : Obligations.SpecialRegistersWrittenOnlyByTheirWriters := by
  intro i s t h
  have hran := exec_instrRan h
  refine ⟨fun hne => hran.stack.resolve_left ?_, fun hne => hran.rab.resolve_left hne,
    fun hne => hran.isHex.resolve_left hne, fun hne => (hran.display.resolve_left ?_).1⟩
  · rintro ⟨h0, h1, h2⟩
    exact hne (by rw [h0, h1, h2])
  · rintro ⟨hA, hB, hv⟩
    exact hne (by rw [hA, hB, hv])

/-- Settles O23, from the list of next states. -/
theorem noInstructionWritesKeyLatchOrRom : Obligations.NoInstructionWritesKeyLatchOrRom := by
  intro i s t h
  have hran := exec_instrRan h
  obtain ⟨hrow, hcol, hpressed⟩ := hran.key
  exact ⟨hrow, hcol, hpressed, fun p => by rw [hran.rom], hran.cfg⟩

/-! ### Steps -/

/-- A step that has a next state ran the fetched word's instruction on the incremented pc. -/
theorem step_instrRan {s t : State} (h : step s = .next t) :
    ∃ w, fetch s = some w ∧ InstrRan { s with pc := s.pc + 1 } (decode s.cfg w) t := by
  cases hf : fetch s with
  | none =>
    rw [step_of_fetch_none hf] at h
    cases h
  | some w =>
    rw [step_of_fetch hf] at h
    exact ⟨w, rfl, exec_instrRan h⟩

/-- Settles O10: the instructions that set pc are the four that clear COND, and JMPR5. -/
theorem pcOnlyIncrementsOutsideControlTransfers : Obligations.PcOnlyIncrementsOutsideControlTransfers := by
  intro s t w hf h hbr0 hbr1 hcall hjmp hret
  obtain ⟨w', hf', hran⟩ := step_instrRan h
  obtain rfl : w = w' := Option.some.inj (hf.symm.trans hf')
  have hpc : t.pc = s.pc + 1 := by
    rcases hran.pc with hpc | (⟨a, hi⟩ | ⟨a, hi⟩ | ⟨a, hi⟩ | ⟨aux, hi⟩) | ⟨aux, hi⟩
    · exact hpc
    · exact absurd hi (hbr0 a)
    · exact absurd hi (hbr1 a)
    · exact absurd hi (hcall a)
    · exact absurd hi (hret aux)
    · exact absurd hi (hjmp aux)
  rw [hpc, BitVec.toNat_add]
  rfl

/-- Settles O14: a step changes neither ROM nor parameters, and the display latches only along with display_valid. -/
theorem stepKeepsTheInvariant : Obligations.StepKeepsTheInvariant := by
  intro s t hinv h
  obtain ⟨hrom, hcfg, hlatch⟩ := hinv
  obtain ⟨w, -, hran⟩ := step_instrRan h
  refine ⟨by rw [hran.rom, hrom], by rw [hran.cfg]; exact hcfg, fun hvalid => ?_⟩
  rcases hran.display with ⟨hA, hB, hkept⟩ | ⟨-, htrue⟩
  · rw [hA, hB]
    exact hlatch (hkept ▸ hvalid)
  · cases htrue.symm.trans hvalid

end Sys2Proof.Machine

/-! Runs of transitions (41 R130): what no transition changes, and what a machine supplied by `boot` (70 R273)
therefore keeps for ever. -/

namespace Sys2Proof.Machine

/-! ### What every transition keeps -/

/-- `t` has the ROM and the parameters of `s`, and the invariant if `s` has it. -/
def KeepsInvariantAndSupply (s t : State) : Prop := (s.Inv → t.Inv) ∧ t.cfg = s.cfg ∧ t.rom = s.rom

theorem step_keeps {s t : State} (h : step s = .next t) : KeepsInvariantAndSupply s t := by
  obtain ⟨w, -, hran⟩ := step_instrRan h
  exact ⟨fun hinv => stepKeepsTheInvariant s t hinv h, hran.cfg, hran.rom⟩

theorem init_keeps (s : State) : KeepsInvariantAndSupply s (init s) :=
  ⟨fun ⟨hrom, hcfg, _⟩ => ⟨hrom, hcfg, fun _ => ⟨rfl, rfl⟩⟩, rfl, rfl⟩

theorem setKey_keeps (s : State) (row : Fin 8) (col : Fin 5) (p : Bool) :
    KeepsInvariantAndSupply s (s.setKey row col p) :=
  ⟨id, rfl, rfl⟩

theorem keyPress_next {row col : Nat} {s t : State} (h : keyPress row col s = .next t) :
    ∃ r c, t = s.setKey r c true := by
  unfold keyPress at h
  split at h
  · cases h
    exact ⟨_, _, rfl⟩
  · cases h

theorem transition_keeps {tr : Transition} {s t : State} (h : transition tr s = .next t) :
    KeepsInvariantAndSupply s t := by
  cases tr with
  | next => exact step_keeps h
  | init =>
    cases h
    exact init_keeps s
  | keyPress row col =>
    obtain ⟨r, c, rfl⟩ := keyPress_next h
    exact setKey_keeps s r c true
  | keyRelease =>
    cases h
    exact setKey_keeps s _ _ false

theorem runTransitions_keeps (ts : List Transition) {s t : State} (h : runTransitions ts s = .next t) :
    KeepsInvariantAndSupply s t := by
  induction ts generalizing s with
  | nil =>
    cases h
    exact ⟨id, rfl, rfl⟩
  | cons tr ts ih =>
    cases hu : transition tr s with
    | next u =>
      simp only [runTransitions, hu] at h
      obtain ⟨hinv, hcfg, hrom⟩ := transition_keeps hu
      obtain ⟨hinv', hcfg', hrom'⟩ := ih h
      exact ⟨fun hs => hinv' (hinv hs), hcfg'.trans hcfg, hrom'.trans hrom⟩
    | fault r => simp [runTransitions, hu] at h
    | refused r => simp [runTransitions, hu] at h

/-- Settles O13: the reset state's ROM is empty, its parameters are the defaults and its latches are zero. -/
theorem invariantHoldsAtReset : Obligations.InvariantHoldsAtReset :=
  ⟨Memory.wf_reset, by decide, fun _ => ⟨rfl, rfl⟩⟩

/-- Settles O15, by induction on the list of transitions. -/
theorem runsKeepTheInvariantAndTheRom : Obligations.RunsKeepTheInvariantAndTheRom := by
  intro ts s t h
  obtain ⟨hinv, hcfg, hrom⟩ := runTransitions_keeps ts h
  exact ⟨hinv, hcfg, fun p => by rw [hrom]⟩

/-! ### The machine `boot` supplies -/

theorem boot_eq_next {c : Config} (hc : c.Wf) {image : List RomWord} (himage : image.length = 2048) :
    boot c image = .next { State.reset with rom := romOfImage 0 image, cfg := c } := by
  rw [boot, if_neg (not_not_intro hc), if_neg (not_not_intro himage)]

theorem boot_not_wf {c : Config} (hc : ¬ c.Wf) (image : List RomWord) : boot c image = .refused .badConfig := by
  rw [boot, if_pos hc]

theorem boot_next {c : Config} {image : List RomWord} {s : State} (h : boot c image = .next s) :
    c.Wf ∧ image.length = 2048 ∧ s = { State.reset with rom := romOfImage 0 image, cfg := c } := by
  by_cases hc : c.Wf
  · by_cases himage : image.length = 2048
    · rw [boot_eq_next hc himage] at h
      cases h
      exact ⟨hc, himage, rfl⟩
    · rw [boot, if_neg (not_not_intro hc), if_pos himage] at h
      cases h
  · rw [boot_not_wf hc] at h
    cases h

theorem read_romOfImage (image : List RomWord) (p : Addr) : (romOfImage 0 image).read p = image[p.toNat]? := by
  have h := romOfImage_lookup image 0 p.toNat
  rwa [Nat.zero_add] at h

theorem romTotal_of_boot {c : Config} {image : List RomWord} {s : State} (h : boot c image = .next s) :
    RomTotal s := by
  obtain ⟨-, hlen, rfl⟩ := boot_next h
  intro p
  have hp : p.toNat < image.length := by omega
  rw [read_romOfImage, List.getElem?_eq_getElem hp]
  rfl

/-- Settles O16, from the lookup in the list an image is loaded to. -/
theorem bootSuppliesTheWholeRom : Obligations.BootSuppliesTheWholeRom := by
  intro c image
  refine ⟨fun hc himage => ⟨_, boot_eq_next hc himage⟩, fun s h => ?_⟩
  have htotal := romTotal_of_boot h
  obtain ⟨hc, hlen, rfl⟩ := boot_next h
  exact ⟨⟨romOfImage_wf (le_of_eq hlen), hc, fun _ => ⟨rfl, rfl⟩⟩, htotal, read_romOfImage image, rfl⟩

/-- Settles O17: the lower bound of such a window is not above 0, which the check of the parameters asks. -/
theorem bootRefusesAWindowOverAddressZero : Obligations.BootRefusesAWindowOverAddressZero := by
  intro c image w hw hzero
  refine boot_not_wf (fun hc => ?_) image
  obtain ⟨-, hwindows⟩ := hc
  obtain ⟨-, hpos⟩ := hwindows w hw
  have hlo : w.lo ≤ 0 := of_decide_eq_true (Bool.and_eq_true_iff.mp hzero).1
  exact absurd hpos (BitVec.not_lt.mpr hlo)

/-! ### No faults (60 R250) -/

theorem exec_ne_fault (i : Instr) (s : State) (f : Fault) : exec i s ≠ .fault f := by
  intro h
  by_cases hi : i.IsReserved
  · rcases hi with ⟨aux, code, rfl⟩ | ⟨m, j, k, l, n, rfl⟩
    · simp only [exec, execMiscRsv] at h
      split at h <;> cases h
    · simp only [exec, execMaskRsv] at h
      split at h
      · cases h
      · split at h <;> cases h
  · obtain ⟨t, ht⟩ := exec_next_of_not_isReserved hi s
    cases ht.symm.trans h

/-- With a word at every address no transition faults. -/
theorem transition_ne_fault {s : State} (hs : RomTotal s) (tr : Transition) (f : Fault) :
    transition tr s ≠ .fault f := by
  intro h
  cases tr with
  | next =>
    obtain ⟨w, hw⟩ := Option.isSome_iff_exists.mp (hs s.pc)
    exact exec_ne_fault _ _ f ((step_of_fetch hw).symm.trans h)
  | init => cases h
  | keyPress row col =>
    simp only [transition, keyPress] at h
    split at h <;> cases h
  | keyRelease => cases h

theorem runTransitions_ne_fault (ts : List Transition) {s : State} (hs : RomTotal s) (f : Fault) :
    runTransitions ts s ≠ .fault f := by
  induction ts generalizing s with
  | nil => simp [runTransitions]
  | cons tr ts ih =>
    cases hu : transition tr s with
    | next u =>
      obtain ⟨-, -, hrom⟩ := transition_keeps hu
      have htotal : RomTotal u := fun p => by rw [hrom]; exact hs p
      simpa only [runTransitions, hu] using ih htotal
    | fault r => exact absurd hu (transition_ne_fault hs tr r)
    | refused r => simp [runTransitions, hu]

/-- Settles O12: the ROM is total from the start and no transition changes it. -/
theorem noRunFromBootEverFaults : Obligations.NoRunFromBootEverFaults :=
  fun _ _ _ h ts f => runTransitions_ne_fault ts (romTotal_of_boot h) f

end Sys2Proof.Machine

/-! The key latch and the display latches stand apart from the rest of the state: every instruction but DISP runs the
same whatever they hold (10 R30, R41, R42; 47 R240). Both claims are of one change of the latches, `State.mapLatches`.
-/

namespace Sys2Proof.Machine

/-- The key latch changed by `fk` and the display latches by `fd`. -/
def State.mapLatches (fk : Fin 8 × Fin 5 × Bool → Fin 8 × Fin 5 × Bool) (fd : Reg × Reg × Bool → Reg × Reg × Bool)
    (s : State) : State :=
  { s with
    keyRow := (fk (s.keyRow, s.keyCol, s.keyPressed)).1
    keyCol := (fk (s.keyRow, s.keyCol, s.keyPressed)).2.1
    keyPressed := (fk (s.keyRow, s.keyCol, s.keyPressed)).2.2
    dA := (fd (s.dA, s.dB, s.displayValid)).1
    dB := (fd (s.dA, s.dB, s.displayValid)).2.1
    displayValid := (fd (s.dA, s.dB, s.displayValid)).2.2 }

theorem setDisplay_eq_mapLatches (s : State) (vA vB : Reg) (valid : Bool) :
    { s with dA := vA, dB := vB, displayValid := valid } = s.mapLatches id fun _ => (vA, vB, valid) := rfl

/-- An outcome with its next state changed by `g`. -/
def mapNext (g : State → State) : Result → Result
  | .next s => .next (g s)
  | .fault r => .fault r
  | .refused r => .refused r

section mapLatches

variable (fk : Fin 8 × Fin 5 × Bool → Fin 8 × Fin 5 × Bool) (fd : Reg × Reg × Bool → Reg × Reg × Bool) (s : State)

@[simp] theorem mapLatches_reg (r : RegName) : (s.mapLatches fk fd).reg r = s.reg r := by
  cases r <;> rfl

@[simp] theorem mapLatches_rightOperand (k : Operand) (rg : DigitRange) :
    rightOperand (s.mapLatches fk fd) k rg = rightOperand s k rg := by
  cases k with
  | reg r => exact mapLatches_reg fk fd s r
  | one => rfl
  | r5 => rfl

theorem mapLatches_writeRange (dest : Option RegName) (rg : DigitRange) (t : Reg) :
    (s.mapLatches fk fd).writeRange dest rg t = (s.writeRange dest rg t).mapLatches fk fd := by
  cases dest with
  | none => rfl
  | some r =>
    simp only [State.writeRange, mapLatches_reg]
    rfl

theorem mapLatches_opRipple (f : Digit → Digit → Bool → Digit × Bool) (dest : Option RegName) (left right : Reg)
    (rg : DigitRange) :
    opRipple f dest left right rg (s.mapLatches fk fd) = (opRipple f dest left right rg s).mapLatches fk fd := by
  simp only [opRipple, mapLatches_writeRange]
  rfl

theorem mapLatches_writeRefresh (dest : Option RegName) (rg : DigitRange) (t r : Reg) :
    ((s.mapLatches fk fd).writeRange dest rg t).refreshR5 r rg =
      ((s.writeRange dest rg t).refreshR5 r rg).mapLatches fk fd := by
  simp only [mapLatches_writeRange]
  rfl

theorem mapLatches_opExchange (left right : RegName) (rg : DigitRange) :
    opExchange left right rg (s.mapLatches fk fd) = (opExchange left right rg s).mapLatches fk fd := by
  simp only [opExchange, mapLatches_reg, mapLatches_writeRange]
  rfl

theorem mapLatches_onRange (m : BitVec 4) {op op' : DigitRange → State → State}
    (hop : ∀ rg, op' rg (s.mapLatches fk fd) = (op rg s).mapLatches fk fd) :
    onRange m op' (s.mapLatches fk fd) = mapNext (State.mapLatches fk fd) (onRange m op s) := by
  cases hrg : s.cfg.range m with
  | none =>
    rw [onRange_none s hrg, onRange_none (s.mapLatches fk fd) hrg]
    rfl
  | some rg =>
    rw [onRange_some s hrg, onRange_some (s.mapLatches fk fd) hrg, hop]
    rfl

theorem mapLatches_updateFlag (r : RegName) (d : BitVec 2) (f : Digit → Digit) :
    (s.mapLatches fk fd).updateFlag r d f = (s.updateFlag r d f).mapLatches fk fd := by
  simp only [State.updateFlag, mapLatches_reg]
  rfl

theorem exec_isReserved_mapLatches {i : Instr} (hi : i.IsReserved) :
    exec i (s.mapLatches fk fd) = mapNext (State.mapLatches fk fd) (exec i s) := by
  cases hnop : s.cfg.reservedAsNop with
  | true =>
    rw [exec_isReserved_nop hi hnop, exec_isReserved_nop hi (s := s.mapLatches fk fd) hnop]
    rfl
  | false =>
    rcases hi with ⟨aux, code, rfl⟩ | ⟨m, j, k, l, n, rfl⟩
    · rw [exec_miscRsv_refused hnop, exec_miscRsv_refused (s := s.mapLatches fk fd) hnop]
      rfl
    · cases hrg : s.cfg.range m with
      | none =>
        rw [exec_maskRsv_of_range_none hrg, exec_maskRsv_of_range_none (s := s.mapLatches fk fd) hrg]
        rfl
      | some rg =>
        rw [exec_maskRsv_refused hnop hrg, exec_maskRsv_refused (s := s.mapLatches fk fd) hnop hrg]
        rfl

/-- Every instruction but DISP commutes with a change of the latches. -/
theorem exec_mapLatches {i : Instr} (hi : ∀ aux, i ≠ .disp aux) :
    exec i (s.mapLatches fk fd) = mapNext (State.mapLatches fk fd) (exec i s) := by
  cases i with
  | disp aux => exact absurd rfl (hi aux)
  | br0 a | br1 a =>
    simp only [exec, execBr0, execBr1, branchIf_eq]
    rfl
  | ret aux =>
    cases hfill : s.cfg.popFill with
    | keep =>
      simp only [exec, execRet, State.pop, State.mapLatches, hfill]
      rfl
    | draw =>
      simp only [exec, execRet, State.pop, State.mapLatches, hfill]
      rfl
  | miscRsv aux code => exact exec_isReserved_mapLatches fk fd s (.inl ⟨_, _, rfl⟩)
  | maskRsv m j k l n => exact exec_isReserved_mapLatches fk fd s (.inr ⟨_, _, _, _, _, rfl⟩)
  | setf | clrf | tglf =>
    simp only [exec, execSetf, execClrf, execTglf, mapLatches_updateFlag]
    rfl
  | tstf r d b =>
    simp only [exec, execTstf, mapLatches_reg]
    rfl
  | addj | addk | addn =>
    simp only [exec, execAddj, execAddk, execAddn]
    refine mapLatches_onRange fk fd s _ fun rg => ?_
    simp only [mapLatches_reg, mapLatches_rightOperand, opAdd, mapLatches_opRipple]
    rfl
  | subj | subk | subn =>
    simp only [exec, execSubj, execSubk, execSubn]
    refine mapLatches_onRange fk fd s _ fun rg => ?_
    simp only [mapLatches_reg, mapLatches_rightOperand, opSub, mapLatches_opRipple]
    rfl
  | exch m j k => exact mapLatches_onRange fk fd s m fun rg => mapLatches_opExchange fk fd s j k rg
  | stor =>
    simp only [exec, execStor]
    refine mapLatches_onRange fk fd s _ fun rg => ?_
    simp only [mapLatches_rightOperand, opStore, mapLatches_writeRefresh]
  | shl | shln =>
    simp only [exec, execShl, execShln]
    refine mapLatches_onRange fk fd s _ fun rg => ?_
    simp only [mapLatches_reg, opShiftLeft, mapLatches_writeRefresh]
  | shr | shrn =>
    simp only [exec, execShr, execShrn]
    refine mapLatches_onRange fk fd s _ fun rg => ?_
    simp only [mapLatches_reg, opShiftRight, mapLatches_writeRefresh]
  | _ => rfl

end mapLatches

/-! ### DISP (43 R168) -/

theorem exec_disp_no_key {s : State} (h : s.keyPressed = false) (aux : BitVec 4) :
    exec (.disp aux) s = .next { s with dA := s.a, dB := s.b, displayValid := true } := by
  have hscan : (s.latchDisplay s.a s.b).scanKey = s.latchDisplay s.a s.b := if_neg (by simp [h])
  simp only [exec, execDisp, hscan]
  rfl

theorem exec_disp_key {s : State} (h : s.keyPressed = true) (aux : BitVec 4) :
    exec (.disp aux) s = .next { s with
      dA := s.a, dB := s.b, displayValid := true, cond := true
      r5 := (s.cfg.keyCode.get s.keyRow).get s.keyCol } := by
  have hscan : (s.latchDisplay s.a s.b).scanKey =
      ((s.latchDisplay s.a s.b).setR5 (s.latchDisplay s.a s.b).scanCode).setCond true := by
    rcases (s.latchDisplay s.a s.b).scanKey_cases with ⟨-, hscan⟩ | ⟨hno, -⟩
    · exact hscan
    · cases h.symm.trans hno
  simp only [exec, execDisp, hscan]
  rfl

/-- Settles O25: every other instruction commutes with a change of the latches, and DISP with no key pressed reads
neither row nor column. -/
theorem keyLatchIsReadOnlyByDisp : Obligations.KeyLatchIsReadOnlyByDisp := by
  intro i s row col p hcase
  have hcomm : exec i (s.setKey row col p) = mapNext (·.setKey row col p) (exec i s) := by
    by_cases hi : ∀ aux, i ≠ .disp aux
    · exact exec_mapLatches (fun _ => (row, col, p)) id s hi
    · obtain ⟨hs, rfl⟩ := hcase.resolve_left hi
      obtain ⟨aux, rfl⟩ := not_forall_not.mp hi
      rw [exec_disp_no_key hs, exec_disp_no_key (s := s.setKey row col false) rfl]
      rfl
  exact ⟨fun t h => by rw [hcomm, h]; rfl, fun r h => by rw [hcomm, h]; rfl⟩

/-- Settles O26: every other instruction commutes with a change of the latches, and DISP overwrites them. -/
theorem displayLatchesAffectNothing : Obligations.DisplayLatchesAffectNothing := by
  intro i s t vA vB valid h
  have hcomm (hi : ∀ aux, i ≠ .disp aux) : exec i { s with dA := vA, dB := vB, displayValid := valid } =
      .next { t with dA := vA, dB := vB, displayValid := valid } := by
    rw [setDisplay_eq_mapLatches, exec_mapLatches _ _ s hi, h]
    rfl
  cases i with
  | disp aux => exact h
  | _ => exact hcomm fun _ hi => nomatch hi

end Sys2Proof.Machine

/-! The control, misc and flag instructions, each complete: its word (30 R83 to R86), the fields it changes and the
fields it keeps (42, 43, 44). -/

namespace Sys2Proof

/-! ### Words -/

theorem branchWords_eq_encode (c : Config) (a : BitVec 10) :
    BitVec.ofNat 16 (0x1800 + a.toNat) = encode c (.br0 a) ∧ BitVec.ofNat 16 (0x1C00 + a.toNat) = encode c (.br1 a) :=
  ⟨(eq_ofNat_of_toNat (encode_br0_toNat c a)).symm, (eq_ofNat_of_toNat (encode_br1_toNat c a)).symm⟩

theorem miscWord_eq_encodeMisc (aux code : BitVec 4) :
    BitVec.ofNat 16 (0x0E00 + aux.toNat * 16 + code.toNat) = encodeMisc aux code :=
  (eq_ofNat_of_toNat (encodeMisc_toNat aux code)).symm

/-- Under the default MISC_MAP, a misc word decodes by the table of 43 R160. -/
theorem decode_defaultMiscWord {c : Config} (hmap : c.miscMap = defaultMiscMap) (aux code : BitVec 4) {op : MiscOp}
    (hop : defaultConfig.misc code = some op) {base : Nat} (hbase : base = 0x0E00 + code.toNat) :
    decode c (BitVec.ofNat 16 (base + aux.toNat * 16)) = miscInstr aux op := by
  have hmisc : c.misc code = some op := by
    rw [← hop, Config.misc, hmap]
    rfl
  rw [hbase, Nat.add_right_comm, miscWord_eq_encodeMisc, decode_encodeMisc_some hmisc]

theorem flagWord_eq_encodeFlag (r : RegName) (d b f : BitVec 2) :
    BitVec.ofNat 16 (0x0C00 + (regIndex r).toNat * 64 + d.toNat * 16 + b.toNat * 4 + f.toNat) = encodeFlag r d b f :=
  (eq_ofNat_of_toNat (encodeFlag_toNat r d b f)).symm

end Sys2Proof

namespace Sys2Proof.Machine

/-! ### Branches (42 R150, R151) -/

theorem and_branchPageMask_toNat (pc : Addr) : (pc &&& branchPageMask).toNat = pc.toNat / 1024 * 1024 := by
  have hbit : pc.getLsbD 10 = decide (pc.toNat / 1024 % 2 = 1) := Nat.testBit_eq_decide_div_mod_eq
  have hmask : branchPageMask = BitVec.twoPow 11 10 := rfl
  have hweight : (BitVec.twoPow 11 10).toNat = 1024 := rfl
  rw [hmask, BitVec.and_twoPow, hbit]
  by_cases h : pc.toNat / 1024 % 2 = 1
  · rw [if_pos (decide_eq_true h), hweight]
    omega
  · rw [if_neg (by simpa using h), BitVec.toNat_zero]
    omega

/-- The branch target as a number: the page of pc, and the field below it. -/
theorem branchTarget_eq (pc : Addr) (a : BitVec 10) :
    branchTarget pc a = BitVec.ofNat 11 (pc.toNat / 1024 * 1024 + a.toNat) := by
  have hpage := and_branchPageMask_toNat pc
  have hsum : (branchTarget pc a).toNat = pc.toNat / 1024 * 1024 + a.toNat := by
    rw [branchTarget, toNat_or_lowField _ a (by decide) (by rw [hpage]; omega), hpage]
  rw [← hsum, BitVec.ofNat_toNat, BitVec.setWidth_eq]

theorem exec_br0 (a : BitVec 10) (s : State) :
    exec (.br0 a) s = .next { s with pc := if s.cond = false then branchTarget s.pc a else s.pc, cond := false } := by
  simp only [exec, execBr0, branchIf_eq]
  rfl

theorem exec_br1 (a : BitVec 10) (s : State) :
    exec (.br1 a) s = .next { s with pc := if s.cond = true then branchTarget s.pc a else s.pc, cond := false } := by
  simp only [exec, execBr1, branchIf_eq]
  rfl

/-- Settles O27, from the words' round trip, the target as a number and the cost as a test of two fields. -/
theorem branchesCompleteInTheirPage : Obligations.BranchesCompleteInTheirPage := by
  intro s a
  obtain ⟨hbr0, hbr1⟩ := branchWords_eq_encode s.cfg a
  refine ⟨by rw [hbr0, decode_encode_br0], by rw [hbr1, decode_encode_br1], by rw [exec_br0, branchTarget_eq],
    by rw [exec_br1, branchTarget_eq], ?_, ?_⟩
  · rw [cost_eq, hbr0, encode_br0_toNat, if_neg (by omega)]
  · rw [cost_eq, hbr1, encode_br1_toNat]
    exact if_congr (by omega) rfl rfl

/-- Settles O32: a BR1 not taken leaves COND clear, which the BR0 after it takes. -/
theorem branchPairJumpsUnconditionally : Obligations.BranchPairJumpsUnconditionally := by
  intro s a
  refine ⟨_, exec_br1 a s, rfl, fun h => if_pos h, fun h => ?_⟩
  have hpc : (if s.cond = true then branchTarget s.pc a else s.pc) = s.pc := if_neg (by simp [h])
  refine ⟨hpc, _, exec_br0 a _, rfl, ?_⟩
  simp only [hpc, if_true]

/-! ### The return stack (43 R164) -/

theorem exec_ret_keep {s : State} (h : s.cfg.popFill = .keep) (aux : BitVec 4) :
    exec (.ret aux) s = .next { s with pc := s.s0, s0 := s.s1, s1 := s.s2, cond := false } := by
  simp only [exec, execRet, s.pop_keep h]
  rfl

theorem exec_ret_draw {s : State} (h : s.cfg.popFill = .draw) (aux : BitVec 4) :
    exec (.ret aux) s = .next { s with
      pc := s.s0, s0 := s.s1, s1 := s.s2, s2 := Config.freeSlot s.draws, cond := false, draws := s.draws + 1 } := by
  simp only [exec, execRet, s.pop_draw h]
  rfl

/-- Settles O29, from the pop under each filling of the bottom slot. -/
theorem returnCompletes : Obligations.ReturnCompletes :=
  fun _ aux => ⟨fun hmap => decode_defaultMiscWord hmap aux 3 (op := .ret) rfl rfl, fun h => exec_ret_keep h aux,
    fun h => ⟨_, exec_ret_draw h aux⟩⟩

/-- What the return stack holds after a CALL. -/
theorem exec_call_stack (a : Addr) (s : State) :
    ∃ t, exec (.call a) s = .next t ∧ (t.s0, t.s1, t.s2) = (s.pc, s.s0, s.s1) ∧ t.cfg = s.cfg :=
  ⟨_, exec_call a s, rfl, rfl⟩

/-- What the return stack holds after a RET, whatever fills the bottom slot. -/
theorem exec_ret_stack (aux : BitVec 4) (s : State) :
    ∃ t, exec (.ret aux) s = .next t ∧ (t.pc, t.s0, t.s1) = (s.s0, s.s1, s.s2) ∧ t.cfg = s.cfg ∧
      (s.cfg.popFill = .keep → t.s2 = s.s2) := by
  cases h : s.cfg.popFill with
  | keep => exact ⟨_, exec_ret_keep h aux, rfl, rfl, fun _ => rfl⟩
  | draw => exact ⟨_, exec_ret_draw h aux, rfl, rfl, nofun⟩

/-- Settles O31: each CALL moves the stack down by one slot and each RET moves it up by one. -/
theorem returnStackIsThreeDeep : Obligations.ReturnStackIsThreeDeep := by
  intro s a1 a2 a3 a4 p1 p2 p3 p4 q1 q2 q3 q4 x1 x2 x3 x4
  obtain ⟨t1, ht1, hs1, hc1⟩ := exec_call_stack a1 { s with pc := p1 }
  obtain ⟨t2, ht2, hs2, hc2⟩ := exec_call_stack a2 { t1 with pc := p2 }
  obtain ⟨t3, ht3, hs3, hc3⟩ := exec_call_stack a3 { t2 with pc := p3 }
  obtain ⟨t4, ht4, hs4, hc4⟩ := exec_call_stack a4 { t3 with pc := p4 }
  obtain ⟨u1, hu1, hr1, hd1, hk1⟩ := exec_ret_stack x1 { t4 with pc := q1 }
  obtain ⟨u2, hu2, hr2, hd2, -⟩ := exec_ret_stack x2 { u1 with pc := q2 }
  obtain ⟨u3, hu3, hr3, hd3, -⟩ := exec_ret_stack x3 { u2 with pc := q3 }
  obtain ⟨u4, hu4, hr4, -, -⟩ := exec_ret_stack x4 { u3 with pc := q4 }
  simp only [Prod.mk.injEq] at hs1 hs2 hs3 hs4 hr1 hr2 hr3 hr4 hk1 hc1 hc2 hc3 hc4
  refine ⟨t1, t2, t3, t4, u1, u2, u3, u4, ht1, ht2, ht3, ht4, ?_, hu1, ?_, hu2, ?_, hu3, ?_, hu4, fun hkeep => ?_⟩
  · simp only [hs4, hs3, hs2]
  · simp only [hr1, hs4]
  · simp only [hr2, hr1, hs4, hs3]
  · simp only [hr3, hr2, hr1, hs4, hs3, hs2]
  · have hfill : t4.cfg.popFill = .keep := by rw [hc4, hc3, hc2, hc1, hkeep]
    simp only [hr4, hr3, hr2, hk1 hfill, hs4, hs3, hs2]

/-! ### Jump, storage, RAB and base (43) -/

theorem r5Target_toNat (r5 : BitVec 8) : (r5Target r5).toNat = r5.toNat := by
  rw [r5Target, BitVec.toNat_setWidth]
  omega

/-- Settles O30, from the value of the zero-extended R5. -/
theorem indirectJumpCompletes : Obligations.IndirectJumpCompletes := by
  intro s aux
  have hle : s.r5.toNat ≤ 255 := by omega
  exact ⟨fun hmap => decode_defaultMiscWord hmap aux 2 (op := .jmpR5) rfl rfl,
    s.setPc (r5Target s.r5), rfl, r5Target_toNat s.r5, (r5Target_toNat s.r5).trans_le hle, rfl⟩

/-- Setting one register of a vector: it reads as written, and the others as before. -/
theorem get_set_same_and_ne (v : Vector Reg 8) (r : BitVec 3) (a : Reg) :
    (v.set r.toNat a).get r.toFin = a ∧ ∀ n : Fin 8, n ≠ r.toFin → (v.set r.toNat a).get n = v.get n := by
  constructor
  · rw [Vector.get_eq_getElem]
    exact Vector.getElem_set_self _
  · intro n hn
    by_contra hne
    exact hn (Fin.ext (get_set_ne hne))

/-- Settles O33: each copy is one register write. -/
theorem storageCopiesComplete : Obligations.StorageCopiesComplete := by
  intro s aux
  refine ⟨fun hmap => ⟨?_, ?_, ?_, ?_⟩, rfl, rfl, ⟨_, rfl, get_set_same_and_ne s.x s.rab s.a⟩,
    ⟨_, rfl, get_set_same_and_ne s.y s.rab s.a⟩⟩
  · exact decode_defaultMiscWord hmap aux 0 (op := .ytoa) rfl rfl
  · exact decode_defaultMiscWord hmap aux 5 (op := .xtoa) rfl rfl
  · exact decode_defaultMiscWord hmap aux 4 (op := .atox) rfl rfl
  · exact decode_defaultMiscWord hmap aux 6 (op := .atoy) rfl rfl

theorem r5Rab_eq (r5 : BitVec 8) : r5Rab r5 = BitVec.ofNat 3 (r5.toNat % 8) := by
  refine BitVec.eq_of_toNat_eq ?_
  rw [r5Rab, BitVec.extractLsb'_toNat, Nat.shiftRight_zero, BitVec.toNat_ofNat]
  omega

/-- Settles O34: op[7:4] of a RABI word is op[7] above RAB's three bits. -/
theorem rabLoadsComplete : Obligations.RabLoadsComplete := by
  intro s op7 n aux
  refine ⟨fun hmap => ⟨?_, decode_defaultMiscWord hmap aux 0xA (op := .rabR5) rfl rfl⟩, rfl, ?_⟩
  · have haux : 0x0E01 + op7.toNat * 128 + n.toNat * 16 = 0x0E01 + (rabiAux op7 n).toNat * 16 := by
      rw [rabiAux_toNat]
      omega
    rw [haux, ← miscInstr_rabiAux op7 n]
    exact decode_defaultMiscWord hmap _ 1 (op := .rabi) rfl rfl
  · rw [← r5Rab_eq]
    rfl

/-- Settles O35, from the base's two tests. -/
theorem baseSelectsComplete : Obligations.BaseSelectsComplete :=
  fun _ aux => ⟨fun hmap => ⟨decode_defaultMiscWord hmap aux 8 (op := .dec) rfl rfl,
    decode_defaultMiscWord hmap aux 9 (op := .hex) rfl rfl⟩, rfl, rfl,
    fun _ => ⟨if_pos (.inr rfl), if_congr (or_iff_left Bool.false_ne_true) rfl rfl⟩⟩

/-- Settles O36, from the two cases of the key scan. -/
theorem displayLatchAndKeyScanComplete : Obligations.DisplayLatchAndKeyScanComplete := by
  intro s aux
  refine ⟨fun hmap => decode_defaultMiscWord hmap aux 7 (op := .disp) rfl rfl, ?_, fun h => exec_disp_no_key h aux,
    fun h => exec_disp_key h aux⟩
  rw [cost_eq, BitVec.toNat_ofNat, if_pos (by omega)]

/-- The default MISC_MAP leaves the codes from 0xB on without an operation (43 R160). -/
theorem defaultConfig_misc_eq_none_iff (code : BitVec 4) : defaultConfig.misc code = none ↔ 0xB ≤ code.toNat := by
  revert code
  decide

/-- Settles O37, from the two outcomes of a reserved instruction. -/
theorem reservedMiscWordsRefuseOrDoNothing : Obligations.ReservedMiscWordsRefuseOrDoNothing := by
  intro s aux code
  rw [miscWord_eq_encodeMisc]
  exact ⟨fun h => decode_encodeMisc_none h aux, defaultConfig_misc_eq_none_iff code,
    fun h => exec_isReserved_nop (.inl ⟨aux, code, rfl⟩) h, fun h => exec_miscRsv_refused h aux code⟩

/-! ### Flag operations (44) -/

/-- The weight `1 << b` has bit `b` alone, and its complement every bit but that one. -/
theorem flagBit_getLsbD (b : BitVec 2) {k : Nat} (hk : k < 4) :
    (flagBit b).getLsbD k = decide (k = b.toNat) ∧ (0xF - flagBit b).getLsbD k = !decide (k = b.toNat) := by
  revert b
  interval_cases k <;> decide

/-- The bits of a register after one flag digit `12 + d` of `r` became `f` of it, when `f` changes bit `b` by `g` and
keeps the others. -/
theorem updateFlag_getLsbD (s : State) (r : RegName) (d b : BitVec 2) {f : Digit → Digit} {g : Bool → Bool}
    (hf : ∀ v k, k < 4 → (f v).getLsbD k = if k = b.toNat then g (v.getLsbD k) else v.getLsbD k) (q : RegName)
    {n k : Nat} (hn : n < 16) (hk : k < 4) :
    (((s.updateFlag r d f).reg q).digit n).getLsbD k =
      if q = r ∧ n = 12 + d.toNat ∧ k = b.toNat then g (((s.reg q).digit n).getLsbD k)
      else ((s.reg q).digit n).getLsbD k := by
  have hdigit : flagDigit d = 12 + d.toNat := rfl
  rw [State.updateFlag_digit s r d f q hn, hdigit]
  by_cases hqn : q = r ∧ n = 12 + d.toNat
  · obtain ⟨hq, hd⟩ := hqn
    simp only [hq, hd, and_self, true_and, if_true, hf _ k hk]
  · rw [if_neg hqn, if_neg fun ⟨hq, hd, _⟩ => hqn ⟨hq, hd⟩]

theorem updateFlag_keeps (s : State) (r : RegName) (d : BitVec 2) (f : Digit → Digit) :
    KeepsAllButRegsCondR5 s (s.updateFlag r d f) := by
  constructor <;> simp [State.updateFlag]

/-- Settles O38, bit by bit: each of the three digit functions acts on one bit. -/
theorem flagWritesCompleteOnOneBit : Obligations.FlagWritesCompleteOnOneBit := by
  intro s r d b word
  obtain ⟨hsetf, hclrf, -, htglf⟩ := decode_encodeFlag s.cfg r d b
  have hset (v : Digit) (k : Nat) (hk : k < 4) :
      (v ||| flagBit b).getLsbD k = if k = b.toNat then true else v.getLsbD k := by
    rw [BitVec.getLsbD_or, (flagBit_getLsbD b hk).1]
    by_cases h : k = b.toNat <;> simp [h]
  have hclr (v : Digit) (k : Nat) (hk : k < 4) :
      (v &&& (0xF - flagBit b)).getLsbD k = if k = b.toNat then false else v.getLsbD k := by
    rw [BitVec.getLsbD_and, (flagBit_getLsbD b hk).2]
    by_cases h : k = b.toNat <;> simp [h]
  have htgl (v : Digit) (k : Nat) (hk : k < 4) :
      (v ^^^ flagBit b).getLsbD k = if k = b.toNat then !v.getLsbD k else v.getLsbD k := by
    rw [BitVec.getLsbD_xor, (flagBit_getLsbD b hk).1]
    by_cases h : k = b.toNat <;> simp [h]
  refine ⟨(congrArg _ (flagWord_eq_encodeFlag r d b 0)).trans hsetf,
    (congrArg _ (flagWord_eq_encodeFlag r d b 1)).trans hclrf,
    (congrArg _ (flagWord_eq_encodeFlag r d b 3)).trans htglf, _, _, _, rfl, rfl, rfl, fun q n k hn hk => ?_, ?_⟩
  · exact ⟨updateFlag_getLsbD s r d b (g := fun _ => true) hset q hn hk,
      updateFlag_getLsbD s r d b (g := fun _ => false) hclr q hn hk, updateFlag_getLsbD s r d b (g := not) htgl q hn hk⟩
  · rintro t (rfl | rfl | rfl) <;> exact ⟨updateFlag_keeps s r d _, rfl, rfl⟩

/-- The test of TSTF reads one bit of the digit. -/
theorem shiftRight_and_one_beq (v : Digit) (b : BitVec 2) : (v >>> b.toNat &&& 1 == 1) = v.getLsbD b.toNat := by
  revert v b
  decide

/-- Settles O39, from the bit the test reads. -/
theorem flagTestCompletes : Obligations.FlagTestCompletes := by
  intro s r d b
  obtain ⟨-, -, htstf, -⟩ := decode_encodeFlag s.cfg r d b
  constructor
  · have hword : 0x0C02 + (regIndex r).toNat * 64 + d.toNat * 16 + b.toNat * 4 =
        0x0C00 + (regIndex r).toNat * 64 + d.toNat * 16 + b.toNat * 4 + (2 : BitVec 2).toNat := by
      rw [show (2 : BitVec 2).toNat = 2 from rfl]
      omega
    rw [hword, flagWord_eq_encodeFlag, htstf]
  · have harm : exec (.tstf r d b) s =
        .next (s.setCond (s.cond || ((s.reg r).digit (12 + d.toNat)).getLsbD b.toNat)) :=
      congrArg (fun e => Host.Outcome.next (s.setCond (s.cond || e))) (shiftRight_and_one_beq _ b)
    rw [harm]
    cases ((s.reg r).digit (12 + d.toNat)).getLsbD b.toNat
    · simp [State.setCond]
    · simp [State.setCond]

end Sys2Proof.Machine

/-! The mask instructions, each complete (45 R190 to R206): its word, and the effect of its primitive (40 R101 to
R109). -/

namespace Sys2Proof

/-! ### Words -/

theorem maskWord_eq_encodeMask (m : BitVec 4) (j : RegName) (k : BitVec 3) (l : BitVec 2) (n : BitVec 1) :
    BitVec.ofNat 16 (m.toNat * 256 + (regIndex j).toNat * 64 + k.toNat * 8 + l.toNat * 2 + n.toNat) =
      encodeMask m j k l n :=
  (eq_ofNat_of_toNat (encodeMask_toNat m j k l n)).symm

section families

variable {c : Config} {m : BitVec 4} {rg : DigitRange} (hclass : isMaskClass m = true) (hrg : c.range m = some rg)
  (j : RegName) (l : BitVec 2) (n : BitVec 1) {ln : Nat} (hln : ln = l.toNat * 2 + n.toNat)

include hclass hrg hln

/-- A word with an operand's K, and L and N given as one number, decodes by the grid of 30 R90. -/
theorem decode_operandWord_ofNat (op : Operand) :
    decode c (BitVec.ofNat 16 (m.toNat * 256 + (regIndex j).toNat * 64 + (operandCode op).toNat * 8 + ln)) =
      decodeArith m j op l n := by
  rw [hln, ← Nat.add_assoc, maskWord_eq_encodeMask,
    decode_operandWord j l n ((c.hasRange_iff m).mpr ⟨hclass, rg, hrg⟩)]

/-- A word with the shift code decodes by the grid's row of shifts. -/
theorem decode_shiftWord_ofNat :
    decode c (BitVec.ofNat 16 (m.toNat * 256 + (regIndex j).toNat * 64 + shiftCode.toNat * 8 + ln)) =
      decodeShift m j l n := by
  rw [hln, ← Nat.add_assoc, maskWord_eq_encodeMask,
    decode_shiftWord j l n ((c.hasRange_iff m).mpr ⟨hclass, rg, hrg⟩)]

end families

end Sys2Proof

namespace Sys2Proof.Machine

/-! ### No-ops and reserved words -/

/-- Settles O46: without a range every mask instruction is `onRange`'s first case. -/
theorem noOpsComplete : Obligations.NoOpsComplete := by
  intro s m
  refine ⟨fun _ => rfl, fun _ => rfl, fun hnone => ⟨exec_maskRsv_of_range_none hnone, fun i hi => ?_⟩⟩
  obtain ⟨op, hexec, -⟩ := exec_eq_onRange_of_maskOpOf hi s
  rw [hexec, onRange_none s hnone]

/-- Settles O47, from the reserved words' decoding and the two outcomes of a reserved instruction. -/
theorem reservedMaskWordsRefuseOrDoNothing : Obligations.ReservedMaskWordsRefuseOrDoNothing := by
  intro s m rg j k l n hrg
  rw [maskWord_eq_encodeMask]
  exact ⟨fun hclass hrsv => decode_reservedWord j l n ((s.cfg.hasRange_iff m).mpr ⟨hclass, rg, hrg⟩) hrsv,
    fun h => exec_isReserved_nop (.inr ⟨m, j, k, l, n, rfl⟩) h, fun h => exec_maskRsv_refused h hrg j k l n⟩

/-- Settles O48, digit by digit of the two synthesized registers. -/
theorem rightOperandDigits : Obligations.RightOperandDigits := by
  intro s rg i hi
  refine ⟨fun _ => rfl, ?_, ?_⟩
  · rw [rightOperand, oneRegister, Reg.digit_ofFn _ hi]
    split <;> rfl
  · rw [rightOperand, r5Register, Reg.digit_ofFn _ hi]
    split
    · rw [BitVec.extractLsb'_toNat, Nat.shiftRight_zero]
    · split
      · rw [BitVec.extractLsb'_toNat, Nat.shiftRight_eq_div_pow]
        omega
      · rfl

/-! ### The digit rules hold of the scratch registers -/

/-- The carry into digit `i`, counted from digit lo. -/
def carryAt (f : Digit → Digit → Bool → Digit × Bool) (left right : Reg) (rg : DigitRange) (i : Nat) : Nat :=
  (carryInto f left right rg.lo.val (i - rg.lo.val)).toNat

theorem carryAt_lo (f : Digit → Digit → Bool → Digit × Bool) (left right : Reg) (rg : DigitRange) :
    carryAt f left right rg rg.lo.val = 0 := by
  rw [carryAt, Nat.sub_self, carryInto_zero]
  rfl

/-- The carry after digit `i` is what the digit's formula puts out. -/
theorem carryAt_succ (f : Digit → Digit → Bool → Digit × Bool) (left right : Reg) (rg : DigitRange) {i : Nat}
    (hi : rg.lo.val ≤ i) :
    carryAt f left right rg (i + 1) =
      (f (left.digit i) (right.digit i) (carryInto f left right rg.lo.val (i - rg.lo.val))).2.toNat := by
  rw [carryAt, Nat.sub_add_comm hi, carryInto_succ, Nat.add_sub_cancel' hi]

theorem carryAt_hi_eq_one_iff (f : Digit → Digit → Bool → Digit × Bool) (left right : Reg) (rg : DigitRange) :
    carryAt f left right rg (rg.hi.val + 1) = 1 ↔ rippleOut f left right rg = true := by
  rw [carryAt, rippleOut]
  cases carryInto f left right rg.lo.val (rg.hi.val + 1 - rg.lo.val) <;> simp

/-- One digit of an add by the two cases of 40 R101. -/
theorem addDigit_cases {base : Nat} (hbase : base ≤ 16) (x y : Digit) (carry : Bool) :
    (base ≤ x.toNat + y.toNat + carry.toNat ∧ (addDigit base x y carry).2 = true ∧
        (addDigit base x y carry).1.toNat = (x.toNat + y.toNat + carry.toNat - base) % 16) ∨
      (x.toNat + y.toNat + carry.toNat < base ∧ (addDigit base x y carry).2 = false ∧
        (addDigit base x y carry).1.toNat = x.toNat + y.toNat + carry.toNat) := by
  rw [addDigit_spec]
  split
  case isTrue h => exact .inl ⟨h, rfl, BitVec.toNat_ofNat ..⟩
  case isFalse h =>
    refine .inr ⟨Nat.lt_of_not_le h, rfl, ?_⟩
    rw [BitVec.toNat_ofNat]
    omega

/-- One digit of a subtract by the two cases of 40 R102. -/
theorem subDigit_cases (base : Nat) (x y : Digit) (borrow : Bool) :
    ((x.toNat : Int) - y.toNat - borrow.toNat < 0 ∧ (subDigit base x y borrow).2 = true ∧
        ((subDigit base x y borrow).1.toNat : Int) = ((x.toNat : Int) - y.toNat - borrow.toNat + base) % 16) ∨
      (0 ≤ (x.toNat : Int) - y.toNat - borrow.toNat ∧ (subDigit base x y borrow).2 = false ∧
        ((subDigit base x y borrow).1.toNat : Int) = (x.toNat : Int) - y.toNat - borrow.toNat) := by
  rw [subDigit_spec]
  split
  case isTrue h =>
    refine .inl ⟨h, rfl, ?_⟩
    rw [BitVec.toNat_ofInt]
    omega
  case isFalse h =>
    refine .inr ⟨Int.le_of_not_gt h, rfl, ?_⟩
    rw [BitVec.toNat_ofInt]
    omega

theorem base_le (s : State) (rg : DigitRange) : s.base rg ≤ 16 := by
  rw [State.base]
  split <;> decide

theorem addRule_rippleDigits {base : Nat} (hbase : base ≤ 16) (left right : Reg) (rg : DigitRange) :
    AddRule base left right (rippleDigits (addDigit base) left right rg) rg
      (carryAt (addDigit base) left right rg) := by
  refine ⟨carryAt_lo _ _ _ _, fun i hlo hhi => ?_⟩
  rw [rippleDigits_digit _ left right rg hlo hhi, carryAt_succ _ left right rg hlo]
  rcases addDigit_cases hbase (left.digit i) (right.digit i)
    (carryInto (addDigit base) left right rg.lo.val (i - rg.lo.val)) with ⟨hs, hout, hdigit⟩ | ⟨hs, hout, hdigit⟩
  · rw [hout, hdigit]
    exact (if_pos hs).mpr ⟨rfl, rfl⟩
  · rw [hout, hdigit]
    exact (if_neg (Nat.not_le_of_lt hs)).mpr ⟨rfl, rfl⟩

theorem subRule_rippleDigits (base : Nat) (left right : Reg) (rg : DigitRange) :
    SubRule base left right (rippleDigits (subDigit base) left right rg) rg
      (carryAt (subDigit base) left right rg) := by
  refine ⟨carryAt_lo _ _ _ _, fun i hlo hhi => ?_⟩
  rw [rippleDigits_digit _ left right rg hlo hhi, carryAt_succ _ left right rg hlo]
  rcases subDigit_cases base (left.digit i) (right.digit i)
    (carryInto (subDigit base) left right rg.lo.val (i - rg.lo.val)) with ⟨hs, hout, hdigit⟩ | ⟨hs, hout, hdigit⟩
  · rw [hout, hdigit]
    exact (if_pos hs).mpr ⟨rfl, rfl⟩
  · rw [hout, hdigit]
    exact (if_neg (Int.not_lt_of_ge hs)).mpr ⟨rfl, rfl⟩

/-! ### The effect of each primitive -/

/-- The refreshed R5 is the one 40 R109 reads from the register. -/
theorem r5From_of_eq {r : Reg} {rg : DigitRange} {s' : State} (h : s'.r5 = refreshValue r rg) : R5From r rg s' := by
  rw [R5From, h, refreshValue_toNat]

section primitives

variable (s : State) (dest : Option RegName) (left right : Reg) (rg : DigitRange)

theorem opRipple_writes (f : Digit → Digit → Bool → Digit × Bool) :
    WritesRange dest rg (rippleDigits f left right rg) s (opRipple f dest left right rg s) :=
  writeRange_writes s dest rg _ _ (opRipple_reg s f left right rg dest)

theorem opRipple_cond_iff (f : Digit → Digit → Bool → Digit × Bool) :
    (opRipple f dest left right rg s).cond = true ↔
      s.cond = true ∨ carryAt f left right rg (rg.hi.val + 1) = 1 := by
  rw [opRipple_cond, Bool.or_eq_true, carryAt_hi_eq_one_iff]

theorem opAdd_effect : AddEffect dest left right rg s (opAdd dest left right rg s) :=
  ⟨_, _, addRule_rippleDigits (base_le s rg) left right rg, opRipple_writes s dest left right rg _,
    opRipple_cond_iff s dest left right rg _, r5From_of_eq (opRipple_r5 s _ left right rg dest),
    opRipple_keeps s _ left right rg dest⟩

theorem opSub_effect : SubEffect dest left right rg s (opSub dest left right rg s) :=
  ⟨_, _, subRule_rippleDigits (s.base rg) left right rg, opRipple_writes s dest left right rg _,
    opRipple_cond_iff s dest left right rg _, r5From_of_eq (opRipple_r5 s _ left right rg dest),
    opRipple_keeps s _ left right rg dest⟩

/-- What the shifts and Store share: the destination takes the range of `t` and R5 is refreshed from it. -/
theorem writeRefresh_effect (t : Reg) :
    let s' := (s.writeRange dest rg t).refreshR5 t rg
    WritesRange dest rg t s s' ∧ s'.cond = s.cond ∧ R5From t rg s' ∧ KeepsAllButRegsCondR5 s s' :=
  ⟨writeRange_writes s dest rg t _ (writeRefresh_reg s rg dest t t), by simp, r5From_of_eq rfl,
    writeRefresh_keeps s rg dest t t⟩

theorem opShiftLeft_effect (src : Reg) : ShiftLeftEffect dest src rg s (opShiftLeft dest src rg s) := by
  refine ⟨shiftedLeft src rg, ?_, fun i hlo hhi => ?_, writeRefresh_effect s dest rg (shiftedLeft src rg)⟩
  · rw [shiftedLeft_digit rg src rg.lo.isLt, if_neg (by omega)]
  · rw [shiftedLeft_digit rg src (by omega), if_pos ⟨hlo, hhi⟩]

theorem opShiftRight_effect (src : Reg) : ShiftRightEffect dest src rg s (opShiftRight dest src rg s) := by
  refine ⟨shiftedRight src rg, ?_, fun i hlo hhi => ?_, writeRefresh_effect s dest rg (shiftedRight src rg)⟩
  · rw [shiftedRight_digit rg src rg.hi.isLt, if_neg (by omega)]
  · rw [shiftedRight_digit rg src (by omega), if_pos ⟨hlo, hhi⟩]

/-- A refresh reads the range only, so a register spliced with `new` on it refreshes as `new` does. -/
theorem refreshValue_splice (new old : Reg) (h : rg.lo ≤ rg.hi) :
    refreshValue (Reg.splice rg new old) rg = refreshValue new rg := by
  have hlo : (Reg.splice rg new old).digit rg.lo.val = new.digit rg.lo.val := by
    rw [Reg.digit_splice _ _ _ rg.lo.isLt, if_pos ⟨le_rfl, h⟩]
  have hnext (hlt : rg.lo < rg.hi) : (Reg.splice rg new old).digit (rg.lo.val + 1) = new.digit (rg.lo.val + 1) := by
    have hlt' : rg.lo.val < rg.hi.val := hlt
    rw [Reg.digit_splice _ _ _ (by omega), if_pos (by omega)]
  rw [refreshValue, refreshValue, hlo]
  by_cases hlt : rg.lo < rg.hi
  · rw [if_pos hlt, if_pos hlt, hnext hlt]
  · rw [if_neg hlt, if_neg hlt]

theorem opExchange_effect (l r : RegName) (h : rg.lo ≤ rg.hi) : ExchangeEffect l r rg s (opExchange l r rg s) := by
  refine ⟨fun i hi => ?_, fun i hi => ?_, fun q => opExchange_reg_other s rg, opExchange_cond s rg l r,
    r5From_of_eq ?_, opExchange_keeps s rg l r⟩
  · rw [opExchange_reg_left, Reg.digit_splice _ _ _ hi]
  · rw [opExchange_reg_right, Reg.digit_splice _ _ _ hi]
  · rw [opExchange_r5, opExchange_reg_right, refreshValue_splice rg _ _ h]

end primitives

/-! ### What each instruction runs on its range -/

section equations

variable {s : State} {m : BitVec 4} {rg : DigitRange} (hrg : s.cfg.range m = some rg) (j : RegName)

include hrg

theorem exec_addj (k : Operand) : exec (.addj m j k) s = .next (opAdd (some j) (s.reg j) (rightOperand s k rg) rg s) :=
  onRange_some s hrg fun rg s => opAdd (some j) (s.reg j) (rightOperand s k rg) rg s

theorem exec_addk (k : RegName) : exec (.addk m j k) s = .next (opAdd (some k) (s.reg j) (s.reg k) rg s) :=
  onRange_some s hrg fun rg s => opAdd (some k) (s.reg j) (s.reg k) rg s

theorem exec_addn (k : Operand) : exec (.addn m j k) s = .next (opAdd none (s.reg j) (rightOperand s k rg) rg s) :=
  onRange_some s hrg fun rg s => opAdd none (s.reg j) (rightOperand s k rg) rg s

theorem exec_subj (k : Operand) : exec (.subj m j k) s = .next (opSub (some j) (s.reg j) (rightOperand s k rg) rg s) :=
  onRange_some s hrg fun rg s => opSub (some j) (s.reg j) (rightOperand s k rg) rg s

theorem exec_subk (k : RegName) : exec (.subk m j k) s = .next (opSub (some k) (s.reg j) (s.reg k) rg s) :=
  onRange_some s hrg fun rg s => opSub (some k) (s.reg j) (s.reg k) rg s

theorem exec_subn (k : Operand) : exec (.subn m j k) s = .next (opSub none (s.reg j) (rightOperand s k rg) rg s) :=
  onRange_some s hrg fun rg s => opSub none (s.reg j) (rightOperand s k rg) rg s

theorem exec_exch (k : RegName) : exec (.exch m j k) s = .next (opExchange j k rg s) :=
  onRange_some s hrg fun rg s => opExchange j k rg s

theorem exec_stor (k : Operand) : exec (.stor m j k) s = .next (opStore j (rightOperand s k rg) rg s) :=
  onRange_some s hrg fun rg s => opStore j (rightOperand s k rg) rg s

theorem exec_shl : exec (.shl m j) s = .next (opShiftLeft (some j) (s.reg j) rg s) :=
  onRange_some s hrg fun rg s => opShiftLeft (some j) (s.reg j) rg s

theorem exec_shln : exec (.shln m j) s = .next (opShiftLeft none (s.reg j) rg s) :=
  onRange_some s hrg fun rg s => opShiftLeft none (s.reg j) rg s

theorem exec_shr : exec (.shr m j) s = .next (opShiftRight (some j) (s.reg j) rg s) :=
  onRange_some s hrg fun rg s => opShiftRight (some j) (s.reg j) rg s

theorem exec_shrn : exec (.shrn m j) s = .next (opShiftRight none (s.reg j) rg s) :=
  onRange_some s hrg fun rg s => opShiftRight none (s.reg j) rg s

end equations

/-! ### The instructions -/

/-- Settles O40, from the grid's words and the effect of Add. -/
theorem addFamilyCompletes : Obligations.AddFamilyCompletes := by
  intro s m rg j hclass hrg word
  have hword := fun l n => decode_operandWord_ofNat hclass hrg j l n rfl
  exact ⟨hword 0 0, fun k => hword 1 0 (.reg k), hword 2 0,
    fun k => ⟨_, exec_addj hrg j k, opAdd_effect s _ _ _ rg⟩,
    fun k => ⟨_, exec_addk hrg j k, opAdd_effect s _ _ _ rg⟩,
    fun k => ⟨_, exec_addn hrg j k, opAdd_effect s _ _ _ rg⟩⟩

/-- Settles O41, from the grid's words and the effect of Subtract. -/
theorem subtractFamilyCompletes : Obligations.SubtractFamilyCompletes := by
  intro s m rg j hclass hrg word
  have hword := fun l n => decode_operandWord_ofNat hclass hrg j l n rfl
  exact ⟨hword 0 1, fun k => hword 1 1 (.reg k), hword 2 1,
    fun k => ⟨_, exec_subj hrg j k, opSub_effect s _ _ _ rg⟩,
    fun k => ⟨_, exec_subk hrg j k, opSub_effect s _ _ _ rg⟩,
    fun k => ⟨_, exec_subn hrg j k, opSub_effect s _ _ _ rg⟩⟩

/-- Settles O42, from the grid's word and the effect of Exchange. -/
theorem exchangeCompletes : Obligations.ExchangeCompletes := by
  intro s m rg j k hclass hrg hle word
  exact ⟨decode_operandWord_ofNat hclass hrg j 3 0 rfl (.reg k), _, exec_exch hrg j k,
    opExchange_effect s rg j k hle⟩

/-- Settles O43, from the grid's word and the effect of Store. -/
theorem storeCompletes : Obligations.StoreCompletes := by
  intro s m rg j k hclass hrg word
  exact ⟨decode_operandWord_ofNat hclass hrg j 3 1 rfl k, _, exec_stor hrg j k,
    writeRefresh_effect s (some j) rg (rightOperand s k rg)⟩

/-- Settles O44, from the grid's words and the effect of ShiftLeft. -/
theorem leftShiftsComplete : Obligations.LeftShiftsComplete := by
  intro s m rg j hclass hrg word
  exact ⟨decode_shiftWord_ofNat hclass hrg j 0 0 rfl, decode_shiftWord_ofNat hclass hrg j 2 0 rfl,
    ⟨_, exec_shl hrg j, opShiftLeft_effect s _ rg _⟩, ⟨_, exec_shln hrg j, opShiftLeft_effect s _ rg _⟩⟩

/-- Settles O45, from the grid's words and the effect of ShiftRight. -/
theorem rightShiftsComplete : Obligations.RightShiftsComplete := by
  intro s m rg j hclass hrg word
  exact ⟨decode_shiftWord_ofNat hclass hrg j 0 1 rfl, decode_shiftWord_ofNat hclass hrg j 2 1 rfl,
    ⟨_, exec_shr hrg j, opShiftRight_effect s _ rg _⟩, ⟨_, exec_shrn hrg j, opShiftRight_effect s _ rg _⟩⟩

/-! ### A register minus itself (30 R95) -/

theorem subDigit_self (base : Nat) (x : Digit) : subDigit base x x false = (0, false) := by
  have hzero : (x.toNat : Int) - x.toNat - (false.toNat : Nat) = 0 := by simp
  rw [subDigit_spec, hzero]
  rfl

theorem carryInto_subDigit_self (base : Nat) (r : Reg) (lo n : Nat) : carryInto (subDigit base) r r lo n = false := by
  induction n with
  | zero => rfl
  | succ n ih => rw [carryInto_succ, ih, subDigit_self]

theorem rippleDigits_subDigit_self (base : Nat) (r : Reg) (rg : DigitRange) :
    rippleDigits (subDigit base) r r rg = Reg.zero := by
  refine Reg.ext_digit fun i hi => ?_
  rw [rippleDigits, Reg.digit_ofFn _ hi, Reg.digit_zero, carryInto_subDigit_self, subDigit_self, ite_self]

/-- Settles O49: the scratch of such a subtract is the zero register and no digit borrows. -/
theorem clearPseudoInstructionClears : Obligations.ClearPseudoInstructionClears := by
  intro s m rg j hrg
  have hwrites := opRipple_writes s (some j) (s.reg j) (s.reg j) rg (subDigit (s.base rg))
  rw [rippleDigits_subDigit_self] at hwrites
  obtain ⟨hother, hdest⟩ := hwrites
  refine ⟨rfl, _, exec_subj hrg j (.reg j), fun i hi => ?_,
    fun r hr => hother r fun h => hr (Option.some.inj h).symm, ?_, ?_, opRipple_keeps s _ _ _ rg _⟩
  · rw [← Reg.digit_zero i]
    exact hdest j rfl i hi
  · exact (opRipple_cond s _ (s.reg j) (s.reg j) rg _).trans (by rw [rippleOut, carryInto_subDigit_self, Bool.or_false])
  · refine (opRipple_r5 s _ (s.reg j) (s.reg j) rg _).trans ?_
    rw [rippleDigits_subDigit_self, refreshValue, Reg.digit_zero, Reg.digit_zero, ite_self]
    rfl

end Sys2Proof.Machine

/-! The integer laws of 40 R114 and R115. One digit of an add or a subtract is an equation between numbers; summed
with the weights of `rangeValue`, the equations telescope over the carries. -/

namespace Sys2Proof.Machine

/-! ### The value of a range -/

/-- The value reads the range's digits only. -/
theorem rangeValue_congr (B : Nat) {r t : Reg} {lo n : Nat} (h : ∀ i < n, r.digit (lo + i) = t.digit (lo + i)) :
    rangeValue B r lo n = rangeValue B t lo n := by
  induction n with
  | zero => rfl
  | succ n ih => rw [rangeValue, rangeValue, ih fun i hi => h i (by omega), h n (by omega)]

theorem rangeValue_lt {B : Nat} {r : Reg} {lo n : Nat} (h : ∀ i < n, (r.digit (lo + i)).toNat < B) :
    rangeValue B r lo n < B ^ n := by
  induction n with
  | zero => exact Nat.one_pos
  | succ n ih =>
    have hlow : rangeValue B r lo n < B ^ n := ih fun i hi => h i (by omega)
    have hdigit : (r.digit (lo + n)).toNat + 1 ≤ B := h n (by omega)
    calc rangeValue B r lo n + (r.digit (lo + n)).toNat * B ^ n
        < ((r.digit (lo + n)).toNat + 1) * B ^ n := by rw [Nat.add_mul]; omega
      _ ≤ B * B ^ n := Nat.mul_le_mul_right _ hdigit
      _ = B ^ (n + 1) := (Nat.pow_succ' ..).symm

theorem ValidDigits.digit_lt {B : Nat} {r : Reg} {rg : DigitRange} (h : ValidDigits B r rg) {i : Nat}
    (hi : i < rangeLength rg) : (r.digit (rg.lo.val + i)).toNat < B := by
  have hhi := rg.hi.isLt
  rw [rangeLength] at hi
  exact h _ (by omega) (by omega) (by omega)

/-! ### One digit -/

/-- A digit of an add on valid digits: the digit and the weighted carry out make up the sum. -/
theorem addDigit_valid {B : Nat} (hB : B ≤ 16) {x y : Digit} (hx : x.toNat < B) (hy : y.toNat < B) (carry : Bool) :
    (addDigit B x y carry).1.toNat + (addDigit B x y carry).2.toNat * B = x.toNat + y.toNat + carry.toNat ∧
      (addDigit B x y carry).1.toNat < B := by
  have hcarry := carry.toNat_le
  rcases addDigit_cases hB x y carry with ⟨hs, hout, hdigit⟩ | ⟨hs, hout, hdigit⟩ <;> rw [hdigit, hout]
  · rw [Bool.toNat_true]
    omega
  · rw [Bool.toNat_false]
    omega

/-- A digit of a subtract on valid digits: the digit is the difference and the weighted borrow. -/
theorem subDigit_valid {B : Nat} (hB : B ≤ 16) {x y : Digit} (hx : x.toNat < B) (hy : y.toNat < B) (borrow : Bool) :
    (subDigit B x y borrow).1.toNat + y.toNat + borrow.toNat = x.toNat + (subDigit B x y borrow).2.toNat * B ∧
      (subDigit B x y borrow).1.toNat < B := by
  have hborrow := borrow.toNat_le
  rcases subDigit_cases B x y borrow with ⟨hs, hout, hdigit⟩ | ⟨hs, hout, hdigit⟩ <;> rw [hout]
  · rw [Bool.toNat_true]
    omega
  · rw [Bool.toNat_false]
    omega

/-- Subtracting what was added to a valid digit gives the digit back, and borrows where the add carried. -/
theorem subDigit_addDigit {B : Nat} (hB : B ≤ 16) {x y : Digit} (hx : x.toNat < B) (hy : y.toNat < B) (carry : Bool) :
    subDigit B (addDigit B x y carry).1 y carry = (x, (addDigit B x y carry).2) := by
  obtain ⟨hadd, hlt⟩ := addDigit_valid hB hx hy carry
  obtain ⟨hsub, hlt'⟩ := subDigit_valid hB hlt hy carry
  refine Prod.ext ?_ ?_
  · refine BitVec.eq_of_toNat_eq ?_
    revert hadd hsub
    cases (addDigit B x y carry).2 <;> cases (subDigit B (addDigit B x y carry).1 y carry).2 <;>
      simp only [Bool.toNat_true, Bool.toNat_false] <;> omega
  · revert hadd hsub
    cases (addDigit B x y carry).2 <;> cases (subDigit B (addDigit B x y carry).1 y carry).2 <;> simp <;> omega

/-! ### The range -/

section laws

variable {B : Nat} (hB : B ≤ 16) {left right : Reg} {rg : DigitRange} (hleft : ValidDigits B left rg)
  (hright : ValidDigits B right rg)

/-- A digit of the scratch, counted from digit lo. -/
theorem rippleDigits_digit_add (f : Digit → Digit → Bool → Digit × Bool) {n : Nat} (hn : n < rangeLength rg) :
    (rippleDigits f left right rg).digit (rg.lo.val + n) =
      (f (left.digit (rg.lo.val + n)) (right.digit (rg.lo.val + n)) (carryInto f left right rg.lo.val n)).1 := by
  rw [rangeLength] at hn
  rw [rippleDigits_digit f left right rg (Nat.le_add_right ..) (by omega), Nat.add_sub_cancel_left]

include hB hleft hright

theorem addDigits_lt {n : Nat} (hn : n < rangeLength rg) :
    ((rippleDigits (addDigit B) left right rg).digit (rg.lo.val + n)).toNat < B := by
  rw [rippleDigits_digit_add _ hn]
  exact (addDigit_valid hB (hleft.digit_lt hn) (hright.digit_lt hn) _).2

theorem subDigits_lt {n : Nat} (hn : n < rangeLength rg) :
    ((rippleDigits (subDigit B) left right rg).digit (rg.lo.val + n)).toNat < B := by
  rw [rippleDigits_digit_add _ hn]
  exact (subDigit_valid hB (hleft.digit_lt hn) (hright.digit_lt hn) _).2

/-- The scratch and the weighted carry make up the sum, for each number of digits from lo. -/
theorem rangeValue_add {n : Nat} (hn : n ≤ rangeLength rg) :
    rangeValue B (rippleDigits (addDigit B) left right rg) rg.lo.val n +
        (carryInto (addDigit B) left right rg.lo.val n).toNat * B ^ n =
      rangeValue B left rg.lo.val n + rangeValue B right rg.lo.val n := by
  induction n with
  | zero => simp only [rangeValue, carryInto_zero, Bool.toNat_false, Nat.zero_mul]
  | succ n ih =>
    have hdigit := (addDigit_valid hB (hleft.digit_lt hn) (hright.digit_lt hn)
      (carryInto (addDigit B) left right rg.lo.val n)).1
    rw [← rippleDigits_digit_add _ hn, ← carryInto_succ] at hdigit
    have hlower := ih (by omega)
    simp only [rangeValue, Nat.pow_succ']
    linear_combination hlower + B ^ n * hdigit

/-- The scratch and the subtrahend make up the minuend and the weighted borrow, for each number of digits from lo. -/
theorem rangeValue_sub {n : Nat} (hn : n ≤ rangeLength rg) :
    rangeValue B (rippleDigits (subDigit B) left right rg) rg.lo.val n + rangeValue B right rg.lo.val n =
      rangeValue B left rg.lo.val n + (carryInto (subDigit B) left right rg.lo.val n).toNat * B ^ n := by
  induction n with
  | zero => simp only [rangeValue, carryInto_zero, Bool.toNat_false, Nat.zero_mul]
  | succ n ih =>
    have hdigit := (subDigit_valid hB (hleft.digit_lt hn) (hright.digit_lt hn)
      (carryInto (subDigit B) left right rg.lo.val n)).1
    rw [← rippleDigits_digit_add _ hn, ← carryInto_succ] at hdigit
    have hlower := ih (by omega)
    simp only [rangeValue, Nat.pow_succ']
    linear_combination hlower + B ^ n * hdigit

end laws

/-- An add or a subtract into a register leaves the scratch's digits on the range. -/
theorem opRipple_digit (s : State) (f : Digit → Digit → Bool → Digit × Bool) (left right : Reg) {rg : DigitRange}
    (j : RegName) {i : Nat} (hlo : rg.lo.val ≤ i) (hhi : i ≤ rg.hi.val) :
    ((opRipple f (some j) left right rg s).reg j).digit i = (rippleDigits f left right rg).digit i := by
  have hwrites := (opRipple_writes s (some j) left right rg f).2 j rfl i (by omega)
  rw [hwrites, if_pos ⟨hlo, hhi⟩]

theorem rangeValue_opRipple (B : Nat) (s : State) (f : Digit → Digit → Bool → Digit × Bool) (left right : Reg)
    (rg : DigitRange) (j : RegName) :
    rangeValue B ((opRipple f (some j) left right rg s).reg j) rg.lo.val (rangeLength rg) =
      rangeValue B (rippleDigits f left right rg) rg.lo.val (rangeLength rg) := by
  refine rangeValue_congr B fun i hi => ?_
  rw [rangeLength] at hi
  exact opRipple_digit s f left right j (by omega) (by omega)

/-- Settles O50, from the telescoped sum and the bound on the scratch's value. -/
theorem addIsAdditionModuloTheRange : Obligations.AddIsAdditionModuloTheRange := by
  intro s left right rg _ hleft hright V t
  have hB := base_le s rg
  have hsum : V t + (rippleOut (addDigit (s.base rg)) left right rg).toNat * s.base rg ^ rangeLength rg =
      V left + V right := rangeValue_add hB hleft hright le_rfl
  have hlt : V t < s.base rg ^ rangeLength rg := rangeValue_lt fun i hi => addDigits_lt hB hleft hright hi
  refine ⟨?_, ?_, rangeValue_opRipple _ s _ left right rg⟩
  · calc V t = (V t + (rippleOut (addDigit (s.base rg)) left right rg).toNat * s.base rg ^ rangeLength rg) %
          s.base rg ^ rangeLength rg := by rw [Nat.add_mul_mod_self_right, Nat.mod_eq_of_lt hlt]
      _ = (V left + V right) % s.base rg ^ rangeLength rg := congrArg (· % _) hsum
  · rw [← hsum]
    cases rippleOut (addDigit (s.base rg)) left right rg <;> simp [hlt]

/-- Settles O51, from the telescoped difference and the bounds on the values. -/
theorem subtractIsSubtractionModuloTheRange : Obligations.SubtractIsSubtractionModuloTheRange := by
  intro s left right rg _ hleft hright V t
  have hB := base_le s rg
  have hdiff : V t + V right = V left +
      (rippleOut (subDigit (s.base rg)) left right rg).toNat * s.base rg ^ rangeLength rg :=
    rangeValue_sub hB hleft hright le_rfl
  have hlt : V t < s.base rg ^ rangeLength rg := rangeValue_lt fun i hi => subDigits_lt hB hleft hright hi
  refine ⟨?_, ?_, rangeValue_opRipple _ s _ left right rg⟩
  · have hinteger : (V left : Int) - V right = V t +
        (s.base rg ^ rangeLength rg : Nat) * -((rippleOut (subDigit (s.base rg)) left right rg).toNat : Int) := by
      have hcast := congrArg (Nat.cast (R := Int)) hdiff
      push_cast at hcast ⊢
      linear_combination -hcast
    rw [hinteger, Int.add_mul_emod_self_left, Int.emod_eq_of_lt (Int.natCast_nonneg _) (Int.ofNat_lt.mpr hlt)]
  · revert hdiff
    cases rippleOut (subDigit (s.base rg)) left right rg <;> simp <;> omega

/-! ### The round trip (40 R115) -/

/-- Subtracting `right` from digits that hold its sum with `left` borrows where the add carried. -/
theorem carryInto_subDigit_of_sum {B : Nat} (hB : B ≤ 16) {left right sum : Reg} {rg : DigitRange}
    (hleft : ValidDigits B left rg) (hright : ValidDigits B right rg)
    (hsum : ∀ n < rangeLength rg,
      sum.digit (rg.lo.val + n) = (rippleDigits (addDigit B) left right rg).digit (rg.lo.val + n))
    {n : Nat} (hn : n ≤ rangeLength rg) :
    carryInto (subDigit B) sum right rg.lo.val n = carryInto (addDigit B) left right rg.lo.val n := by
  induction n with
  | zero => rfl
  | succ n ih =>
    rw [carryInto_succ, carryInto_succ, ih (by omega), hsum n hn, rippleDigits_digit_add _ hn,
      subDigit_addDigit hB (hleft.digit_lt hn) (hright.digit_lt hn)]

/-- Settles O52, digit by digit: the borrow into each digit is the carry the add had there. -/
theorem subtractUndoesAdd : Obligations.SubtractUndoesAdd := by
  intro s left right rg j hleft hright added undone
  have hB := base_le s rg
  have hbase : added.base rg = s.base rg := rfl
  have hsum (n : Nat) (hn : n < rangeLength rg) : (added.reg j).digit (rg.lo.val + n) =
      (rippleDigits (addDigit (s.base rg)) left right rg).digit (rg.lo.val + n) := by
    rw [rangeLength] at hn
    exact opRipple_digit s _ left right j (Nat.le_add_right ..) (by omega)
  have hcarry {n : Nat} (hn : n ≤ rangeLength rg) := carryInto_subDigit_of_sum hB hleft hright hsum hn
  refine ⟨fun i hlo hhi => ?_, ?_, fun hs => ?_⟩
  · obtain ⟨n, rfl⟩ := Nat.exists_eq_add_of_le hlo
    have hn : n < rangeLength rg := by
      rw [rangeLength]
      omega
    have hundone : (undone.reg j).digit (rg.lo.val + n) =
        (rippleDigits (subDigit (s.base rg)) (added.reg j) right rg).digit (rg.lo.val + n) :=
      opRipple_digit added _ (added.reg j) right j hlo hhi
    rw [hundone, rippleDigits_digit_add _ hn, hcarry hn.le, hsum n hn, rippleDigits_digit_add _ hn,
      subDigit_addDigit hB (hleft.digit_lt hn) (hright.digit_lt hn)]
  · rw [hbase]
    exact hcarry le_rfl
  · have hcond := opRipple_cond s (addDigit (s.base rg)) left right rg (some j)
    rwa [hs, Bool.false_or] at hcond

end Sys2Proof.Machine

/-! The derived outputs (46), the keys and the display (47), and the machine right after `init` (70 R270 to R274). -/

namespace Sys2Proof.Machine

/-! ### Activity (46 R223, R224) -/

theorem inWindow_iff (s : State) (w : Window) :
    inWindow s w = true ↔ (w.lo ≤ s.pc ∧ s.pc ≤ w.hi) ∨ (w.lo ≤ s.s0 ∧ s.s0 ≤ w.hi) ∨ (w.lo ≤ s.s1 ∧ s.s1 ≤ w.hi) ∨
      (w.lo ≤ s.s2 ∧ s.s2 ≤ w.hi) := by
  simp only [inWindow, Window.contains, Bool.or_eq_true, Bool.and_eq_true, decide_eq_true_eq, or_assoc]

theorem activity_eq_busy {s : State} (h : ∀ w ∈ s.cfg.windows, ¬ inWindow s w = true) : activity s = .busy := by
  rw [activity, activityWindow, List.find?_eq_none.mpr h]

theorem activity_eq_activityOf {s : State} {before after : List Window} {w : Window}
    (hlist : s.cfg.windows = before ++ w :: after) (hbefore : ∀ v ∈ before, ¬ inWindow s v = true)
    (hw : inWindow s w = true) : activity s = activityOf s w.kind := by
  rw [activity, activityWindow, hlist, List.find?_append, List.find?_eq_none.mpr hbefore, Option.none_or,
    List.find?_cons_of_pos hw]

/-- Settles O54, from the search for the first window in the list. -/
theorem activityIsTheFirstMatchingWindows : Obligations.ActivityIsTheFirstMatchingWindows := by
  intro s hit
  have hhit (w : Window) : hit w ↔ inWindow s w = true := (inWindow_iff s w).symm
  simp only [hhit]
  refine ⟨activity_eq_busy, fun before w after hlist hbefore hw => ?_⟩
  rw [activity_eq_activityOf hlist hbefore hw]
  cases w.kind <;> rfl

theorem errorFlag_of_absent {s : State} (h : s.cfg.errorFlag = none) : errorFlag s = false := by
  rw [errorFlag, h]

theorem errorFlag_of_at {s : State} {e : ErrorFlagAt} (h : s.cfg.errorFlag = some e) :
    errorFlag s = ((s.reg e.reg).digit e.digit.val).getLsbD e.bit.val := by
  rw [errorFlag, h]

/-- The blinking variant needs the error flag (46 R223). -/
theorem activity_ne_pollPressBlink {s : State} (h : errorFlag s = false) : activity s ≠ .pollPressBlink := by
  rw [activity]
  cases activityWindow s with
  | none => nofun
  | some w => cases hk : w.kind <;> simp [hk, activityOf, h]

/-- Settles O55, from the bit the flag names. -/
theorem errorFlagReadsItsBit : Obligations.ErrorFlagReadsItsBit := by
  intro s
  refine ⟨fun h => ⟨errorFlag_of_absent h, activity_ne_pollPressBlink (errorFlag_of_absent h)⟩, fun e he => ?_⟩
  rw [errorFlag_of_at he, BitVec.getLsbD, Nat.testBit_eq_decide_div_mod_eq, decide_eq_true_iff]

/-! ### `init` -/

/-- Settles O56: after `init` pc and the stack are 0, which no admitted window contains. -/
theorem modeAndActivityAfterInit : Obligations.ModeAndActivityAfterInit := by
  intro s hwf
  refine ⟨mode_eq_eval_of_c_zero rfl, activity_eq_busy fun w hw hin => ?_⟩
  have hpos : ¬ w.lo ≤ 0 := BitVec.not_le.mpr (hwf w hw).2
  rcases (inWindow_iff (init s) w).mp hin with ⟨h, -⟩ | ⟨h, -⟩ | ⟨h, -⟩ | ⟨h, -⟩ <;> exact hpos h

theorem get_replicate_zero (k : Fin 8) : (Vector.replicate 8 Reg.zero).get k = Reg.zero := by
  rw [Vector.get_eq_getElem, Vector.getElem_replicate]

/-- Settles O57: every field of `init` is the reset state's but the ROM and the parameters. -/
theorem initZeroesTheState : Obligations.InitZeroesTheState := by
  intro s
  refine ⟨fun r n => ?_, fun k n => ?_, fun n => ⟨Reg.digit_zero n, Reg.digit_zero n⟩, rfl, rfl, rfl, rfl, rfl, rfl,
    rfl, rfl, rfl, rfl, rfl, rfl, rfl, fun _ => rfl, rfl⟩
  · cases r <;> exact Reg.digit_zero n
  · have hk : ((Vector.replicate 8 Reg.zero).get k).digit n = 0 := by rw [get_replicate_zero, Reg.digit_zero]
    exact ⟨hk, hk⟩

/-! ### Keys (47 R235 to R240) -/

theorem keyPress_valid (row : Fin 8) (col : Fin 5) (s : State) :
    keyPress row col s = .next (s.setKey row col true) := by
  rw [keyPress, dif_pos ⟨row.isLt, col.isLt⟩]

/-- Settles O58, from the test of the coordinates. -/
theorem keyActionsLatchOrRefuse : Obligations.KeyActionsLatchOrRefuse := by
  refine fun s => ⟨fun row col => keyPress_valid row col s, fun row col h => ?_, rfl, fun h => ?_⟩
  · rw [keyPress, dif_neg (by omega)]
  · rw [keyRelease, State.setKey, ← h]

/-- Settles O59: DISP after a press takes the code of the latched key, and after a release takes none. -/
theorem dispSeesOnlyAHeldKey : Obligations.DispSeesOnlyAHeldKey := by
  intro s r1 r2 c1 c2 aux
  have hpressed : ((s.setKey r1 c1 true).setKey r2 c2 true).keyPressed = true := rfl
  have hreleased : (keyRelease (s.setKey r1 c1 true)).keyPressed = false := rfl
  exact ⟨⟨_, _, _, keyPress_valid r1 c1 s, keyPress_valid r2 c2 _, exec_disp_key hpressed aux, rfl, rfl, rfl⟩,
    ⟨_, _, keyPress_valid r1 c1 s, exec_disp_no_key hreleased aux, rfl, rfl⟩⟩

/-! ### The display (47 R243) -/

/-- One position's text: its character, and a full stop if its decimal point is lit. -/
def ledText (cell : Char × Bool) : List Char := if cell.2 then [cell.1, '.'] else [cell.1]

theorem hexGlyphs_getD_mem (v : Digit) : hexGlyphs.getD v.toNat ' ' ∈ hexGlyphs := by
  have hlt : v.toNat < hexGlyphs.length := v.isLt
  rw [List.getD_eq_getElem _ _ hlt]
  exact List.getElem_mem hlt

/-- Every LED position shows a character of the alphabet and at most a full stop after it. -/
theorem LedCell.exists_ledText (cell : LedCell) :
    ∃ mark : Char × Bool, (mark.1 ∈ hexGlyphs ∨ mark.1 = ' ' ∨ mark.1 = '-') ∧ cell.chars = ledText mark := by
  obtain ⟨glyph, point⟩ := cell
  cases glyph with
  | hex v => exact ⟨(hexGlyphs.getD v.toNat ' ', point), .inl (hexGlyphs_getD_mem v), rfl⟩
  | blank => exact ⟨(' ', point), .inr (.inl rfl), rfl⟩
  | minus => exact ⟨('-', point), .inr (.inr rfl), rfl⟩

theorem ledText_length (cell : Char × Bool) : 1 ≤ (ledText cell).length ∧ (ledText cell).length ≤ 2 := by
  rw [ledText]
  split <;> simp

theorem flatMap_ledText_length (cells : List (Char × Bool)) :
    cells.length ≤ (cells.flatMap ledText).length ∧ (cells.flatMap ledText).length ≤ 2 * cells.length := by
  induction cells with
  | nil => decide
  | cons cell rest ih =>
    have hcell := ledText_length cell
    rw [List.flatMap_cons, List.length_append, List.length_cons]
    omega

theorem getDisplay_blank {s : State} (h : s.displayValid = false) : getDisplay s = List.replicate 12 ' ' := by
  rw [getDisplay, h]
  rfl

/-- The text is that of 12 positions over the alphabet, before and after the first DISP. -/
theorem getDisplay_eq_flatMap (s : State) : ∃ cells : List (Char × Bool), cells.length = 12 ∧
    (∀ cell ∈ cells, cell.1 ∈ hexGlyphs ∨ cell.1 = ' ' ∨ cell.1 = '-') ∧ getDisplay s = cells.flatMap ledText := by
  cases hvalid : s.displayValid with
  | false =>
    refine ⟨List.replicate 12 (' ', false), List.length_replicate, fun cell hcell => ?_, getDisplay_blank hvalid⟩
    rw [List.eq_of_mem_replicate hcell]
    exact .inr (.inl rfl)
  | true =>
    choose mark halphabet hchars using LedCell.exists_ledText
    refine ⟨(Config.displayRender s.dA s.dB).toList.map mark, by simp, fun cell hcell => ?_, ?_⟩
    · obtain ⟨led, -, rfl⟩ := List.mem_map.mp hcell
      exact halphabet led
    · rw [getDisplay, if_pos hvalid, List.flatMap_map]
      exact List.flatMap_congr fun led _ => hchars led

/-- Settles O60, from the 12 positions and the length of each one's text. -/
theorem displayTextIsTwelvePositions : Obligations.DisplayTextIsTwelvePositions := by
  intro s
  obtain ⟨cells, hlen, halphabet, htext⟩ := getDisplay_eq_flatMap s
  obtain ⟨hlo, hhi⟩ := flatMap_ledText_length cells
  refine ⟨getDisplay_blank, cells, hlen, halphabet, htext, ?_, ?_⟩
  · rwa [htext, ← hlen]
  · rw [htext]
    omega

end Sys2Proof.Machine
